-- ==== Sys2Proof/Word.lean ====
section
/-! DEFINITION. The word types of CORE and the numbering of its registers. -/

namespace Sys2Proof

/-- A byte: a V register, a timer, a memory cell, the immediate `kk` (R7, R12, R30). -/
abbrev Byte := BitVec 8

/-- A 16-bit word: an instruction, `pc`, `I`, a return address (R7, R16, R17, R19). -/
abbrev Word := BitVec 16

/-- The 32-bit state of the pseudo-random generator (R25). -/
abbrev Word32 := BitVec 32

/-- The number of a V register: the 4-bit field `x` or `y` names every one of V0 to VF (R12). -/
abbrev Reg := Fin 16

/-- The flag register VF, which is V[15] (R15). -/
abbrev regVF : Reg := 15

end Sys2Proof
end

