-- ==== Sys2Proof/Syntax.lean ====
section
/-! DEFINITION. The instructions of CORE, one constructor per row of the opcode map (R51, R52). -/

namespace Sys2Proof

/-- An instruction with its operands (R52). `x` and `y` number registers, `kk` is the 8-bit immediate, `addr` is
`nnn` zero-extended to 16 bits and `n` is the sprite height (R49, R50). The bounds of `addr` and `n` are the checks of
`Instr.wellFormed`. -/
inductive Instr where
  /-- `00E0` CLS -/
  | cls
  /-- `00EE` RET -/
  | ret
  /-- `1nnn` JP addr -/
  | jp (addr : Word)
  /-- `2nnn` CALL addr -/
  | call (addr : Word)
  /-- `3xkk` SE Vx,byte -/
  | seByte (x : Reg) (kk : Byte)
  /-- `4xkk` SNE Vx,byte -/
  | sneByte (x : Reg) (kk : Byte)
  /-- `5xy0` SE Vx,Vy -/
  | seReg (x y : Reg)
  /-- `6xkk` LD Vx,byte -/
  | ldByte (x : Reg) (kk : Byte)
  /-- `7xkk` ADD Vx,byte -/
  | addByte (x : Reg) (kk : Byte)
  /-- `8xy0` LD Vx,Vy -/
  | ldReg (x y : Reg)
  /-- `8xy1` OR Vx,Vy -/
  | orReg (x y : Reg)
  /-- `8xy2` AND Vx,Vy -/
  | andReg (x y : Reg)
  /-- `8xy3` XOR Vx,Vy -/
  | xorReg (x y : Reg)
  /-- `8xy4` ADD Vx,Vy -/
  | addReg (x y : Reg)
  /-- `8xy5` SUB Vx,Vy -/
  | subReg (x y : Reg)
  /-- `8xy6` SHR Vx. The don't-care field `y` is kept, so that an instruction and its word say the same (R52). -/
  | shr (x y : Reg)
  /-- `8xy7` SUBN Vx,Vy -/
  | subnReg (x y : Reg)
  /-- `8xyE` SHL Vx. The don't-care field `y` is kept, so that an instruction and its word say the same (R52). -/
  | shl (x y : Reg)
  /-- `9xy0` SNE Vx,Vy -/
  | sneReg (x y : Reg)
  /-- `Annn` LD I,addr -/
  | ldI (addr : Word)
  /-- `Bnnn` JP V0,addr -/
  | jpV0 (addr : Word)
  /-- `Cxkk` RND Vx,byte -/
  | rnd (x : Reg) (kk : Byte)
  /-- `Dxyn` DRW Vx,Vy,n -/
  | drw (x y : Reg) (n : Nat)
  /-- `Ex9E` SKP Vx -/
  | skp (x : Reg)
  /-- `ExA1` SKNP Vx -/
  | sknp (x : Reg)
  /-- `Fx07` LD Vx,DT -/
  | ldVxDt (x : Reg)
  /-- `Fx0A` LD Vx,K -/
  | ldVxK (x : Reg)
  /-- `Fx15` LD DT,Vx -/
  | ldDtVx (x : Reg)
  /-- `Fx18` LD ST,Vx -/
  | ldStVx (x : Reg)
  /-- `Fx1E` ADD I,Vx -/
  | addI (x : Reg)
  /-- `Fx29` LD F,Vx -/
  | ldF (x : Reg)
  /-- `Fx33` LD B,Vx -/
  | ldB (x : Reg)
  /-- `Fx55` LD [I],Vx -/
  | ldStore (x : Reg)
  /-- `Fx65` LD Vx,[I] -/
  | ldLoad (x : Reg)
  deriving DecidableEq, Repr

end Sys2Proof
end

