-- ==== Sys2Proof/WellFormed.lean ====
section
/-! DEFINITION. Which instruction terms have an encoding: the operand bounds that the types do not already carry. -/

namespace Sys2Proof

/-- `addr` is a 12-bit field, zero-extended (R49, R50). -/
def addrFits (addr : Word) : Bool := decide (addr.toNat < 4096)

/-- `n` is a 4-bit count, 0..15 (R49, R50). -/
def heightFits (n : Nat) : Bool := decide (n < 16)

/-- The instruction has an encoding: its `addr` and `n` fit their fields. Register numbers and `kk` fit by their
types (R12, R49). -/
def Instr.wellFormed (i : Instr) : Bool :=
  match i with
  | .jp addr => addrFits addr
  | .call addr => addrFits addr
  | .ldI addr => addrFits addr
  | .jpV0 addr => addrFits addr
  | .drw _ _ n => heightFits n
  | .cls => true
  | .ret => true
  | .seByte _ _ => true
  | .sneByte _ _ => true
  | .seReg _ _ => true
  | .ldByte _ _ => true
  | .addByte _ _ => true
  | .ldReg _ _ => true
  | .orReg _ _ => true
  | .andReg _ _ => true
  | .xorReg _ _ => true
  | .addReg _ _ => true
  | .subReg _ _ => true
  | .shr _ _ => true
  | .subnReg _ _ => true
  | .shl _ _ => true
  | .sneReg _ _ => true
  | .rnd _ _ => true
  | .skp _ => true
  | .sknp _ => true
  | .ldVxDt _ => true
  | .ldVxK _ => true
  | .ldDtVx _ => true
  | .ldStVx _ => true
  | .addI _ => true
  | .ldF _ => true
  | .ldB _ => true
  | .ldStore _ => true
  | .ldLoad _ => true

end Sys2Proof
end

