-- ==== Sys2Proof/Decode.lean ====
section
/-! DEFINITION. From instruction words to instructions and back: the fields (R49), `decode` (R54), the opcode map
(R52) and the encoder written from it. -/

namespace Sys2Proof

/-- The bits of `w` from `lo` upward, `len` of them, zero-extended: `w[lo+len-1:lo]` (R8). -/
def field (w : Word) (lo len : Nat) : Nat := w.toNat / 2 ^ lo % 2 ^ len

/-- `op = w[15:12]`, the operation family (R49). -/
def fieldOp (w : Word) : Nat := field w 12 4

/-- `x = w[11:8]`, the first register index (R49). -/
def fieldX (w : Word) : Reg := Fin.ofNat 16 (field w 8 4)

/-- `y = w[7:4]`, the second register index (R49). -/
def fieldY (w : Word) : Reg := Fin.ofNat 16 (field w 4 4)

/-- `n = w[3:0]`, the sprite height or sub-opcode (R49). -/
def fieldN (w : Word) : Nat := field w 0 4

/-- `kk = w[7:0]`, the 8-bit immediate (R49). -/
def fieldKk (w : Word) : Byte := BitVec.ofNat 8 (field w 0 8)

/-- `nnn = w[11:0]`, zero-extended to 16 bits (R49, R50). -/
def fieldNnn (w : Word) : Word := BitVec.ofNat 16 (field w 0 12)

/-- What the decoder answers: the one instruction the word is, or UNKNOWN (R54). -/
inductive Decoded where
  /-- The word matches the row of this instruction. -/
  | known (i : Instr)
  /-- UNKNOWN: the word matches no row and is illegal (R55). -/
  | unknown
  deriving DecidableEq, Repr

/-- Family 8, chosen by the nibble `n` (R54). -/
def decodeFamily8 (x y : Reg) (n : Nat) : Decoded :=
  match n with
  | 0x0 => .known (.ldReg x y)
  | 0x1 => .known (.orReg x y)
  | 0x2 => .known (.andReg x y)
  | 0x3 => .known (.xorReg x y)
  | 0x4 => .known (.addReg x y)
  | 0x5 => .known (.subReg x y)
  | 0x6 => .known (.shr x y)
  | 0x7 => .known (.subnReg x y)
  | 0xE => .known (.shl x y)
  | _ => .unknown

/-- Family E, chosen by `kk` (R54). -/
def decodeFamilyE (x : Reg) (kk : Byte) : Decoded :=
  match kk.toNat with
  | 0x9E => .known (.skp x)
  | 0xA1 => .known (.sknp x)
  | _ => .unknown

/-- Family F, chosen by `kk` (R54). -/
def decodeFamilyF (x : Reg) (kk : Byte) : Decoded :=
  match kk.toNat with
  | 0x07 => .known (.ldVxDt x)
  | 0x0A => .known (.ldVxK x)
  | 0x15 => .known (.ldDtVx x)
  | 0x18 => .known (.ldStVx x)
  | 0x1E => .known (.addI x)
  | 0x29 => .known (.ldF x)
  | 0x33 => .known (.ldB x)
  | 0x55 => .known (.ldStore x)
  | 0x65 => .known (.ldLoad x)
  | _ => .unknown

/-- `decode(w)` of R54: total, by the family nibble and then the sub-case. -/
def decode (w : Word) : Decoded :=
  match fieldOp w with
  | 0x0 => if w = 0x00E0 then .known .cls else if w = 0x00EE then .known .ret else .unknown
  | 0x1 => .known (.jp (fieldNnn w))
  | 0x2 => .known (.call (fieldNnn w))
  | 0x3 => .known (.seByte (fieldX w) (fieldKk w))
  | 0x4 => .known (.sneByte (fieldX w) (fieldKk w))
  | 0x5 => if fieldN w = 0 then .known (.seReg (fieldX w) (fieldY w)) else .unknown
  | 0x6 => .known (.ldByte (fieldX w) (fieldKk w))
  | 0x7 => .known (.addByte (fieldX w) (fieldKk w))
  | 0x8 => decodeFamily8 (fieldX w) (fieldY w) (fieldN w)
  | 0x9 => if fieldN w = 0 then .known (.sneReg (fieldX w) (fieldY w)) else .unknown
  | 0xA => .known (.ldI (fieldNnn w))
  | 0xB => .known (.jpV0 (fieldNnn w))
  | 0xC => .known (.rnd (fieldX w) (fieldKk w))
  | 0xD => .known (.drw (fieldX w) (fieldY w) (fieldN w))
  | 0xE => decodeFamilyE (fieldX w) (fieldKk w)
  | 0xF => decodeFamilyF (fieldX w) (fieldKk w)
  | _ => .unknown

/-- The word of two bytes, the one from the lower address first: it is the high byte (R38, big-endian). -/
def wordOfBytes (hi lo : Byte) : Word := BitVec.ofNat 16 (hi.toNat * 256 + lo.toNat)

/-- The byte of a word that lies at the lower address (R38). -/
def hiByte (w : Word) : Byte := BitVec.ofNat 8 (w.toNat / 256)

/-- The byte of a word that lies at the higher address (R38). -/
def loByte (w : Word) : Byte := BitVec.ofNat 8 w.toNat

/-- The decoder on the two bytes of an instruction as memory holds them. -/
def decodeBytes (hi lo : Byte) : Decoded := decode (wordOfBytes hi lo)

/-- The word whose bits are the low `nbits` bits of `w`, numbered as the opcode table numbers them; its other bits
are 0 (R48: every instruction is one 16-bit word). -/
def tableWord (nbits w : Nat) : Word := BitVec.ofNat 16 (w % 2 ^ nbits)

/-- The instruction the decoder reads from the table's bits `w`, laid out as two bytes in memory; `none` where the
word is UNKNOWN. -/
def decodeTableWord (nbits w : Nat) : Option Instr :=
  match decodeBytes (hiByte (tableWord nbits w)) (loByte (tableWord nbits w)) with
  | .known i => some i
  | .unknown => none

/-- A word of the format `op x y n` (R48). -/
def packXyn (op : Nat) (x y : Reg) (n : Nat) : Word :=
  BitVec.ofNat 16 (op * 4096 + x.val * 256 + y.val * 16 + n)

/-- A word of the format `op x kk` (R48). -/
def packXkk (op : Nat) (x : Reg) (kk : Byte) : Word := BitVec.ofNat 16 (op * 4096 + x.val * 256 + kk.toNat)

/-- A word of the format `op nnn` (R48). -/
def packNnn (op : Nat) (addr : Word) : Word := BitVec.ofNat 16 (op * 4096 + addr.toNat)

/-- The word of a well-formed instruction, from the patterns of R52. -/
def encode (i : Instr) : Word :=
  match i with
  | .cls => 0x00E0
  | .ret => 0x00EE
  | .jp addr => packNnn 0x1 addr
  | .call addr => packNnn 0x2 addr
  | .seByte x kk => packXkk 0x3 x kk
  | .sneByte x kk => packXkk 0x4 x kk
  | .seReg x y => packXyn 0x5 x y 0x0
  | .ldByte x kk => packXkk 0x6 x kk
  | .addByte x kk => packXkk 0x7 x kk
  | .ldReg x y => packXyn 0x8 x y 0x0
  | .orReg x y => packXyn 0x8 x y 0x1
  | .andReg x y => packXyn 0x8 x y 0x2
  | .xorReg x y => packXyn 0x8 x y 0x3
  | .addReg x y => packXyn 0x8 x y 0x4
  | .subReg x y => packXyn 0x8 x y 0x5
  | .shr x y => packXyn 0x8 x y 0x6
  | .subnReg x y => packXyn 0x8 x y 0x7
  | .shl x y => packXyn 0x8 x y 0xE
  | .sneReg x y => packXyn 0x9 x y 0x0
  | .ldI addr => packNnn 0xA addr
  | .jpV0 addr => packNnn 0xB addr
  | .rnd x kk => packXkk 0xC x kk
  | .drw x y n => packXyn 0xD x y n
  | .skp x => packXkk 0xE x 0x9E
  | .sknp x => packXkk 0xE x 0xA1
  | .ldVxDt x => packXkk 0xF x 0x07
  | .ldVxK x => packXkk 0xF x 0x0A
  | .ldDtVx x => packXkk 0xF x 0x15
  | .ldStVx x => packXkk 0xF x 0x18
  | .addI x => packXkk 0xF x 0x1E
  | .ldF x => packXkk 0xF x 0x29
  | .ldB x => packXkk 0xF x 0x33
  | .ldStore x => packXkk 0xF x 0x55
  | .ldLoad x => packXkk 0xF x 0x65

/-- A row of the opcode map: a word `w` matches it when `w &&& mask = pattern` (R52). The pattern of a pair has its
operand letters at 0, and the mask has 0 at the bits of the letters. -/
abbrev OpRow := Word × Word

/-- `w` matches the row (R52). -/
def OpRow.matchesWord (r : OpRow) (w : Word) : Bool := w &&& r.2 == r.1

/-- Families 0 to 7 of the opcode map, as (pattern, mask) (R52). -/
def opcodeMapLow : List OpRow :=
  [(0x00E0, 0xFFFF), (0x00EE, 0xFFFF), (0x1000, 0xF000), (0x2000, 0xF000), (0x3000, 0xF000), (0x4000, 0xF000),
   (0x5000, 0xF00F), (0x6000, 0xF000), (0x7000, 0xF000)]

/-- Families 8 to D of the opcode map, as (pattern, mask) (R52). -/
def opcodeMapMid : List OpRow :=
  [(0x8000, 0xF00F), (0x8001, 0xF00F), (0x8002, 0xF00F), (0x8003, 0xF00F), (0x8004, 0xF00F), (0x8005, 0xF00F),
   (0x8006, 0xF00F), (0x8007, 0xF00F), (0x800E, 0xF00F), (0x9000, 0xF00F), (0xA000, 0xF000), (0xB000, 0xF000),
   (0xC000, 0xF000), (0xD000, 0xF000)]

/-- Families E and F of the opcode map, as (pattern, mask) (R52). -/
def opcodeMapHigh : List OpRow :=
  [(0xE09E, 0xF0FF), (0xE0A1, 0xF0FF), (0xF007, 0xF0FF), (0xF00A, 0xF0FF), (0xF015, 0xF0FF), (0xF018, 0xF0FF),
   (0xF01E, 0xF0FF), (0xF029, 0xF0FF), (0xF033, 0xF0FF), (0xF055, 0xF0FF), (0xF065, 0xF0FF)]

/-- The 34 rows of the opcode map, in the order of R52. -/
def opcodeMap : List OpRow := opcodeMapLow ++ opcodeMapMid ++ opcodeMapHigh

/-- The row of the opcode map that an instruction's words match (R52). -/
def Instr.row (i : Instr) : OpRow :=
  match i with
  | .cls => (0x00E0, 0xFFFF)
  | .ret => (0x00EE, 0xFFFF)
  | .jp _ => (0x1000, 0xF000)
  | .call _ => (0x2000, 0xF000)
  | .seByte _ _ => (0x3000, 0xF000)
  | .sneByte _ _ => (0x4000, 0xF000)
  | .seReg _ _ => (0x5000, 0xF00F)
  | .ldByte _ _ => (0x6000, 0xF000)
  | .addByte _ _ => (0x7000, 0xF000)
  | .ldReg _ _ => (0x8000, 0xF00F)
  | .orReg _ _ => (0x8001, 0xF00F)
  | .andReg _ _ => (0x8002, 0xF00F)
  | .xorReg _ _ => (0x8003, 0xF00F)
  | .addReg _ _ => (0x8004, 0xF00F)
  | .subReg _ _ => (0x8005, 0xF00F)
  | .shr _ _ => (0x8006, 0xF00F)
  | .subnReg _ _ => (0x8007, 0xF00F)
  | .shl _ _ => (0x800E, 0xF00F)
  | .sneReg _ _ => (0x9000, 0xF00F)
  | .ldI _ => (0xA000, 0xF000)
  | .jpV0 _ => (0xB000, 0xF000)
  | .rnd _ _ => (0xC000, 0xF000)
  | .drw _ _ _ => (0xD000, 0xF000)
  | .skp _ => (0xE09E, 0xF0FF)
  | .sknp _ => (0xE0A1, 0xF0FF)
  | .ldVxDt _ => (0xF007, 0xF0FF)
  | .ldVxK _ => (0xF00A, 0xF0FF)
  | .ldDtVx _ => (0xF015, 0xF0FF)
  | .ldStVx _ => (0xF018, 0xF0FF)
  | .addI _ => (0xF01E, 0xF0FF)
  | .ldF _ => (0xF029, 0xF0FF)
  | .ldB _ => (0xF033, 0xF0FF)
  | .ldStore _ => (0xF055, 0xF0FF)
  | .ldLoad _ => (0xF065, 0xF0FF)

end Sys2Proof
end

