-- ==== Sys2Proof/Config.lean ====
section
/-! DEFINITION. What the spec leaves open: the mode and seed of the random generator and the free values of mode
`DRAW` (R7, R88, R89). -/

namespace Sys2Proof

/-- The parameter `RNG_MODE`: how RND gets its 32-bit value (R7, R89). -/
inductive RngMode where
  /-- `STREAM`, the default: one xorshift32 step of RNG (R86). -/
  | stream
  /-- `DRAW`: any 32-bit value, and RNG unchanged. -/
  | draw
  deriving DecidableEq, Repr

/-- The OPEN parameter `RNG_SEED` (R7, R25, R88): nothing in the model knows its value (assumption 4). -/
opaque Config.rngSeed : Word32

/-- The value RND gets in mode `DRAW` when `drawCount` is k (R89, U10: any value): a free value, nothing in the model knows it
(DESIGN CHOICE, assumption 7). -/
opaque Config.draw32 : Nat → Word32

end Sys2Proof
end

