-- ==== Sys2Proof/Machine/State.lean ====
section
/-! DEFINITION. The state of CORE (spec file 10_state.md), its run-time faults as data (R105), the reasons a step can
stop, and the state after reset (R29, R119). -/

namespace Sys2Proof.Machine

/-- The run-time faults of R105. Each halts CORE by the fault entry of R106, which the model takes as a NEXT state. -/
inductive FaultReason where
  /-- 1 `FETCH_RANGE`: fetch with `pc` outside 0x200..0xFFE. -/
  | fetchRange
  /-- 2 `UNKNOWN_OPCODE`: the fetched word matches no instruction. -/
  | unknownOpcode
  /-- 3 `STACK_OVERFLOW`: CALL with SP = 15. -/
  | stackOverflow
  /-- 4 `STACK_UNDERFLOW`: RET with SP = 0. -/
  | stackUnderflow
  /-- 5 `MEM_RANGE`: DRW, LD B,Vx, LD [I],Vx or LD Vx,[I] reaches above 0xFFF. -/
  | memRange
  /-- 6 `PIXEL_RANGE`: a set sprite bit of DRW lands past framebuffer index 2047. -/
  | pixelRange
  /-- 7 `KEY_RANGE`: SKP or SKNP with Vx > 15. -/
  | keyRange
  deriving DecidableEq, Repr

/-- The fault record `FAULT` (R27, R106). -/
structure FaultRecord where
  /-- The fault that halted CORE. -/
  reason : FaultReason
  /-- The address the faulting cycle fetched from. -/
  pc : Word
  /-- The word it fetched; none for `FETCH_RANGE`. -/
  opcode : Option Word
  deriving DecidableEq, Repr

/-- The 4096-byte memory `mem` (R30), as the cells that differ from the reset contents: addresses strictly rising, no
cell equal to what its address reads as when unlisted (`Memory.base`). -/
abbrev Memory := List Host.Cell

/-- The framebuffer, 64 wide and 32 high, one bit a pixel: bit c of row r is the pixel at column c and row r, which is
`FB[r * 64 + c]` (R23). -/
abbrev Framebuffer := Vector (BitVec 64) 32

/-- Everything CORE holds (R12 to R28). -/
structure State where
  /-- V0 to VF (R12); VF is the flag register (R15). -/
  v : Vector Byte 16
  /-- The index register `I` (R16). -/
  iReg : Word
  /-- The address of the next instruction to fetch (R17). -/
  pc : Word
  /-- `SP`: how many return addresses the stack holds (R19). -/
  sp : Fin 16
  /-- `STACK[0]` to `STACK[14]`; an entry keeps its value after its pop (R19, R60). -/
  stack : Vector Word 15
  /-- The delay timer `DT` (R21). -/
  dt : Byte
  /-- The sound timer `ST` (R21). -/
  st : Byte
  /-- The input latch: bit k is `KEYS[k]`, 1 for pressed (R22). -/
  keys : BitVec 16
  /-- The framebuffer `FB` (R23). -/
  fb : Framebuffer
  /-- The draw flag `DRAW` (R24). -/
  draw : Bool
  /-- The memory (R30). -/
  mem : Memory
  /-- The xorshift32 state `RNG` (R25). -/
  rng : Word32
  /-- The parameter `RNG_MODE`, fixed at reset (R89). The model's own field (DESIGN CHOICE, assumption 5): no
  instruction changes it. -/
  rngMode : RngMode
  /-- The place in `Config.draw32` of the next free value RND draws in mode `DRAW`. The model's own field (DESIGN CHOICE,
  assumption 7): within a run from one RESET each draw is a fresh value; RESET sets it (assumption 20). -/
  drawCount : Nat
  /-- `HALTED` (R27). -/
  halted : Bool
  /-- `FAULT`, empty while CORE is not halted (R27). -/
  fault : Option FaultRecord
  /-- The output `BEEP` of the latest cycle (R6, R100; DESIGN CHOICE, assumption 3). -/
  beep : Bool
  deriving DecidableEq, Repr

/-- The reasons a step could end with no next state because the machine stops. There is none: every fault of CORE has
the entry of R106, after which CORE holds a state (halted, with its record) and answers further cycles (R107). Nobody
raises one; that the type is empty is safe. -/
inductive Fault where
  deriving DecidableEq, Repr

/-- The reasons the model gives no state. -/
inductive Refusal where
  /-- An instruction with no meaning in the model, by its mnemonic in the opcode table: raised by an arm of `exec` only,
  and no arm does. Safe: the model stops where the hardware goes on. -/
  | notModelled (mnemonic : String)
  /-- `BOOT_FAILED(ROM_SIZE)`: raised by RESET (`State.boot`) on a ROM of 0 bytes or more than 3584 (R120, U8). No step
  raises it. Safe: the spec builds no state there either. -/
  | bootFailedRomSize
  deriving DecidableEq, Repr

/-- The state RESET builds before any ROM byte is loaded (R29, R119): the font in memory and all else zero, pc = 0x200,
RNG = `RNG_SEED`, mode `STREAM` (DESIGN CHOICE, assumption 8). -/
def State.reset : State where
  v := Vector.replicate 16 0
  iReg := 0
  pc := 0x200
  sp := 0
  stack := Vector.replicate 15 0
  dt := 0
  st := 0
  keys := 0
  fb := Vector.replicate 32 0
  draw := false
  mem := []
  rng := Config.rngSeed
  rngMode := .stream
  drawCount := 0
  halted := false
  fault := none
  beep := false

end Sys2Proof.Machine
end

