-- ==== Sys2Proof/Machine/Ops.lean ====
section
/-! DEFINITION. The named operations over memory, registers, stack and framebuffer, the fetch, the fault entry (R106)
and the timer tick (R99): everything the meanings and the step share. -/

namespace Sys2Proof.Machine

/-! ## Memory -/

/-- The number of bytes of memory: addresses 0x000 to 0xFFF exist (R30). -/
abbrev memSize : Nat := 4096

/-- The glyphs 0 to 7 of `FONT`, 5 bytes each (R34). -/
def fontLow : List Byte :=
  [0xF0, 0x90, 0x90, 0x90, 0xF0] ++ [0x20, 0x60, 0x20, 0x20, 0x70] ++ [0xF0, 0x10, 0xF0, 0x80, 0xF0] ++
  [0xF0, 0x10, 0xF0, 0x10, 0xF0] ++ [0x90, 0x90, 0xF0, 0x10, 0x10] ++ [0xF0, 0x80, 0xF0, 0x10, 0xF0] ++
  [0xF0, 0x80, 0xF0, 0x90, 0xF0] ++ [0xF0, 0x10, 0x20, 0x40, 0x40]

/-- The glyphs 8 to F of `FONT`, 5 bytes each (R34). -/
def fontHigh : List Byte :=
  [0xF0, 0x90, 0xF0, 0x90, 0xF0] ++ [0xF0, 0x90, 0xF0, 0x10, 0xF0] ++ [0xF0, 0x90, 0xF0, 0x90, 0x90] ++
  [0xE0, 0x90, 0xE0, 0x90, 0xE0] ++ [0xF0, 0x80, 0x80, 0x80, 0xF0] ++ [0xE0, 0x90, 0x90, 0x90, 0xE0] ++
  [0xF0, 0x80, 0xF0, 0x80, 0xF0] ++ [0xF0, 0x80, 0xF0, 0x80, 0x80]

/-- The parameter `FONT` at its default, the standard table (R34). -/
def fontTable : List Byte := fontLow ++ fontHigh

/-- What an address reads as while nothing is listed there: its contents after RESET without a ROM, the font at
0x000..0x04F and 0 above (R29, R32; PRESUMED font bytes, assumption 6). -/
def Memory.base (a : Nat) : Byte := fontTable.getD a 0

/-- `mem[a]` (R36). An address above 0xFFF is no byte of memory; the callers check for it first (R35). -/
def Memory.read : Memory → Nat → Byte
  | [], a => Memory.base a
  | (k, c) :: rest, a => if k = a then c else Memory.read rest a

/-- The memory without a cell at `a`. -/
def Memory.erase (m : Memory) (a : Nat) : Memory := m.filter (fun c => c.1 != a)

/-- The memory with the cell `(a, b)` before the first cell of a higher address. -/
def Memory.insert : Memory → Nat → Byte → Memory
  | [], a, b => [(a, b)]
  | (k, c) :: rest, a, b => if a < k then (a, b) :: (k, c) :: rest else (k, c) :: Memory.insert rest a b

/-- `mem[a] <- b` (R37), keeping the canonical form: nothing is listed where the byte is what an unlisted address reads
as. Only the addresses 0x000 to 0xFFF exist (R30): a write elsewhere changes nothing, and the callers check for it first
(R35). -/
def Memory.write (m : Memory) (a : Nat) (b : Byte) : Memory :=
  if a < memSize then (if b = Memory.base a then m.erase a else (m.erase a).insert a b) else m

/-- `MemRead(addr, n)`: the bytes at addr..addr+n-1, first byte first (R36). -/
def Memory.readRange (m : Memory) (a : Nat) : Nat → List Byte
  | 0 => []
  | n + 1 => Memory.read m a :: Memory.readRange m (a + 1) n

/-- `MemWrite(addr, n, bytes)`: the bytes go to addr, addr + 1, ..., first byte first (R37). -/
def Memory.writeRange (m : Memory) (a : Nat) : List Byte → Memory
  | [] => m
  | b :: rest => Memory.writeRange (Memory.write m a b) (a + 1) rest

/-- The canonical form of a memory: addresses strictly rising, every one below 0x1000, and no cell equal to what its
address reads as when unlisted. -/
abbrev Memory.wf (m : Memory) : Prop :=
  m.Pairwise (fun c d => c.1 < d.1) ∧ ∀ c ∈ m, c.1 < memSize ∧ c.2 ≠ Memory.base c.1

/-- The byte at address `a` in a state. -/
def State.readMem (s : State) (a : Nat) : Byte := s.mem.read a

/-- The check of R35: the `n` bytes from address I exist, as exact integers with no wrap. No byte needs no address. -/
def State.reachable (s : State) (n : Nat) : Bool := n == 0 || decide (s.iReg.toNat + n ≤ memSize)

/-- `MemRead(I, n)` (R36). -/
def State.readAtI (s : State) (n : Nat) : List Byte := s.mem.readRange s.iReg.toNat n

/-- `MemWrite(I, n, bytes)` (R37). -/
def State.writeAtI (s : State) (bytes : List Byte) : State :=
  { s with mem := s.mem.writeRange s.iReg.toNat bytes }

/-! ## Registers -/

/-- `V[r]` (R10, R12). -/
def State.getV (s : State) (r : Reg) : Byte := s.v[r.val]

/-- `V[r] <- b` (R10, R12). -/
def State.setV (s : State) (r : Reg) (b : Byte) : State := { s with v := s.v.set r.val b }

/-- `I <- a` (R10, R16). -/
def State.setI (s : State) (a : Word) : State := { s with iReg := a }

/-- `pc <- a` (R10, R17). -/
def State.setPc (s : State) (a : Word) : State := { s with pc := a }

/-- The fetch's advance, `pc <- p + 2`: the state every instruction executes in (R17, R46). -/
def State.advance (s : State) : State := s.setPc (s.pc + 2)

/-- A skip: 2 more bytes when the condition holds (R17, R64). -/
def State.skipIf (s : State) (c : Bool) : State := if c then s.setPc (s.pc + 2) else s

/-- `DT <- b` (R21). -/
def State.setDt (s : State) (b : Byte) : State := { s with dt := b }

/-- `ST <- b` (R21). -/
def State.setSt (s : State) (b : Byte) : State := { s with st := b }

/-! ## The call stack -/

/-- `STACK[k]` (R19). -/
def State.stackAt (s : State) (k : Nat) : Word := s.stack[k]?.getD 0

/-- `STACK[SP] <- a; SP <- SP + 1`; none when SP = 15, where a push overflows (R19). -/
def State.push (s : State) (a : Word) : Option State :=
  if s.sp.val = 15 then none
  else some { s with stack := s.stack.setIfInBounds s.sp.val a, sp := s.sp + 1 }

/-- `SP <- SP - 1`, with the address `STACK[SP]` then holds; none when SP = 0, where a pop underflows (R19). -/
def State.pop (s : State) : Option (Word × State) :=
  if s.sp.val = 0 then none
  else some (s.stackAt (s.sp.val - 1), { s with sp := s.sp - 1 })

/-! ## The framebuffer -/

/-- The number of pixels (R23). -/
abbrev fbSize : Nat := 2048

/-- `FB[p]` of a framebuffer: column p mod 64 of row p / 64 (R23). -/
def pixelOf (fb : Framebuffer) (p : Nat) : Bool := (fb[p / 64]?.getD 0).getLsbD (p % 64)

/-- `FB[p]` (R23). -/
def State.pixel (s : State) (p : Nat) : Bool := pixelOf s.fb p

/-- The framebuffer with `FB[p] <- FB[p] ^ 1` (R93). -/
def flipPixel (fb : Framebuffer) (p : Nat) : Framebuffer :=
  fb.setIfInBounds (p / 64) (fb[p / 64]?.getD 0 ^^^ BitVec.twoPow 64 (p % 64))

/-- The framebuffer with every pixel 0 (R59). -/
def clearedFb : Framebuffer := Vector.replicate 32 0

/-! ## Faults -/

/-- `pc` may be fetched from: 0x200 ≤ pc ≤ 0xFFE (R18). -/
def State.fetchable (s : State) : Bool := decide (0x200 ≤ s.pc.toNat) && decide (s.pc.toNat ≤ 0xFFE)

/-- The word at `pc`: the byte at the lower address is the high byte (R38, R46). -/
def State.fetchWord (s : State) : Word := wordOfBytes (s.readMem s.pc.toNat) (s.readMem (s.pc.toNat + 1))

/-- The opcode a fault record holds: none for `FETCH_RANGE`, else the fetched word (R106). -/
def State.faultOpcode (s : State) (reason : FaultReason) : Option Word :=
  if reason = .fetchRange then none else some s.fetchWord

/-- Fault entry (R106), from the state in which the cycle began: every write of the cycle is undone, CORE halts and
records the reason, the pc it fetched from and the fetched word; no tick, no BEEP. There is no return from it but RESET
(R107, R109). -/
def State.enterFault (s : State) (reason : FaultReason) : State :=
  { s with
    halted := true
    fault := some { reason := reason, pc := s.pc, opcode := s.faultOpcode reason }
    beep := false }

/-- `raise Fault(reason)` (R10, R106): the instruction's outcome is the state of the fault entry. -/
def raiseFault (reason : FaultReason) (s : State) : Host.Outcome State Fault Refusal := .next (s.enterFault reason)

/-- The code of a fault (R105). -/
def FaultReason.code (reason : FaultReason) : Nat :=
  match reason with
  | .fetchRange => 1
  | .unknownOpcode => 2
  | .stackOverflow => 3
  | .stackUnderflow => 4
  | .memRange => 5
  | .pixelRange => 6
  | .keyRange => 7

/-! ## The cycle around an instruction -/

/-- Fetch and decode: the instruction at `pc`, or the fault of the first check that fails (R46, R108). -/
def State.fetchInstr (s : State) : Except FaultReason Instr :=
  if s.fetchable then
    match decode s.fetchWord with
    | .known i => .ok i
    | .unknown => .error .unknownOpcode
  else .error .fetchRange

/-- `tick()` (R99): each timer counts down while above 0, and BEEP is asserted iff ST went from 1 to 0 (R100). -/
def State.tick (s : State) : State :=
  { s with
    dt := if s.dt = 0 then 0 else s.dt - 1
    st := if s.st = 0 then 0 else s.st - 1
    beep := s.st == 1 }

/-- The end of a cycle: the tick, unless the instruction faulted (R46, R99). -/
def State.endCycle (s : State) : State := if s.halted then s else s.tick

/-- The end of a cycle on an instruction's outcome. -/
def finishCycle (o : Host.Outcome State Fault Refusal) : Host.Outcome State Fault Refusal :=
  match o with
  | .next s => .next s.endCycle
  | .fault r => .fault r
  | .refused r => .refused r

/-- A cycle request while halted changes nothing, and its BEEP is not asserted (R107). -/
def State.idleCycle (s : State) : State := { s with beep := false }

/-- The state with the word `w` at `pc`, as memory holds a word (R38). -/
def State.placeWord (s : State) (w : Word) : State :=
  { s with mem := s.mem.writeRange s.pc.toNat [hiByte w, loByte w] }

end Sys2Proof.Machine
end

