-- ==== Sys2Proof/Machine/Operands.lean ====
section
/-! DEFINITION. The operand forms that are more than one register or field: the register block V0..Vx, decimal digits,
glyph addresses, keys, sprites and random values. -/

namespace Sys2Proof.Machine

/-- `[V[0], ..., V[n-1]]`, the first `n` registers (R84). -/
def State.regBlock (s : State) (n : Nat) : List Byte := (List.range n).map (fun k => s.getV (Fin.ofNat 16 k))

/-- `for i in 0..n-1: V[i] <- bytes[i]` (R85). -/
def State.loadRegs (s : State) (bytes : List Byte) : Nat → State
  | 0 => s
  | k + 1 => (s.loadRegs bytes k).setV (Fin.ofNat 16 k) (bytes.getD k 0)

/-- The hundreds, tens and units digit of a byte (R83). -/
def decimalDigits (v : Byte) : List Byte :=
  [BitVec.ofNat 8 (v.toNat / 100), BitVec.ofNat 8 (v.toNat / 10 % 10), BitVec.ofNat 8 (v.toNat % 10)]

/-- The glyph address `zext_16(v) * 5`, with no masking of `v` (R82). -/
def glyphAddress (v : Byte) : Word := BitVec.ofNat 16 (v.toNat * 5)

/-- `KEYS[k]` (R22). -/
def State.keyPressed (s : State) (k : Nat) : Bool := s.keys.getLsbD k

/-- The last pressed key the ascending scan of keys 0..n-1 finds: a later pressed key replaces an earlier one (R98). -/
def State.lastPressed (s : State) : Nat → Option Nat
  | 0 => none
  | k + 1 => if s.keyPressed k then some k else s.lastPressed k

/-- The key a key instruction tests, `V[x]`; none where there is no such key (R96, R97). -/
def State.keyIndex (s : State) (x : Reg) : Option Nat :=
  if 15 < (s.getV x).toNat then none else some (s.getV x).toNat

/-! ## Sprites -/

/-- The columns of the set bits of a sprite byte, left to right: column `col` is bit 7 - col (R91). -/
def spriteColumns (b : Byte) : List Nat := (List.range 8).filter (fun col => b.getLsbD (7 - col))

/-- The framebuffer indices the set bits of a sprite address, row by row from row `cy`, as exact integers
`(cy + row) * 64 + (cx + col)` (R91). -/
def spritePixels (cx cy : Nat) : List Byte → List Nat
  | [] => []
  | b :: rest => (spriteColumns b).map (fun col => cy * 64 + (cx + col)) ++ spritePixels cx (cy + 1) rest

/-- The indices DRW Vx,Vy,n addresses: its sprite is the n bytes at I, its corner is (V[x], V[y]) (R91, R93). -/
def State.drawnPixels (s : State) (x y : Reg) (n : Nat) : List Nat :=
  spritePixels (s.getV x).toNat (s.getV y).toNat (s.readAtI n)

/-- Every addressed pixel is in the framebuffer (R92). -/
def pixelsFit (ps : List Nat) : Bool := ps.all (fun p => decide (p < fbSize))

/-- The pixel loop of R93: flips each addressed pixel in turn, and notes whether some flip turned a set pixel off. -/
def blit (fb : Framebuffer) (hit : Bool) : List Nat → Framebuffer × Bool
  | [] => (fb, hit)
  | p :: rest => blit (flipPixel fb p) (hit || pixelOf fb p) rest

/-! ## Random values -/

/-- One xorshift32 step, `prng_next()` (R86). -/
def xorshift32 (x0 : Word32) : Word32 :=
  let x1 := x0 ^^^ (x0 <<< 13)
  let x2 := x1 ^^^ (x1 >>> 17)
  x2 ^^^ (x2 <<< 5)

/-- The 32-bit value `r` RND gets (R89, R90): the next of the stream, or in mode `DRAW` a free value. -/
def State.randomWord (s : State) : Word32 :=
  match s.rngMode with
  | .stream => xorshift32 s.rng
  | .draw => Config.draw32 s.drawCount

/-- The state after RND got its value (R89): the stream advanced, or in mode `DRAW` RNG unchanged and one more value
drawn. -/
def State.afterRandom (s : State) : State :=
  match s.rngMode with
  | .stream => { s with rng := xorshift32 s.rng }
  | .draw => { s with drawCount := s.drawCount + 1 }

end Sys2Proof.Machine
end

