-- ==== Sys2Proof/Machine/Flags.lean ====
section
/-! DEFINITION. The results and the flag values of the five flag-setting arithmetic instructions (R74 to R79), computed
over exact integers, and the order in which they are written (R47). -/

namespace Sys2Proof.Machine

/-- `bool(c)` as a byte (R9). -/
def boolByte (c : Bool) : Byte := if c then 1 else 0

/-- `trunc_8(a + b)` (R74, R75). -/
def addResult (a b : Byte) : Byte := BitVec.ofNat 8 (a.toNat + b.toNat)

/-- The carry of ADD: the exact sum is above 255 (R75). -/
def addCarry (a b : Byte) : Byte := boolByte (decide (255 < a.toNat + b.toNat))

/-- `trunc_8(a - b)`, which is a - b + 256 when b > a (R74, R76). -/
def subResult (a b : Byte) : Byte := BitVec.ofNat 8 (a.toNat + 256 - b.toNat)

/-- The no-borrow flag of a - b: a > b, strictly (R76, R78). -/
def subNoBorrow (a b : Byte) : Byte := boolByte (decide (b.toNat < a.toNat))

/-- `v >> 1` (R77). -/
def shrResult (v : Byte) : Byte := v >>> 1

/-- The bit SHR shifts out, `v & 1` (R77). -/
def shrOut (v : Byte) : Byte := v &&& 1

/-- `trunc_8(v << 1)` (R79). -/
def shlResult (v : Byte) : Byte := v <<< 1

/-- The bit SHL shifts out, `v >> 7` (R79). -/
def shlOut (v : Byte) : Byte := v >>> 7

/-- `V[x] <- result`, then `V[15] <- flag`, so that with x = 15 VF ends holding the flag (R47). -/
def State.setVAndFlag (s : State) (x : Reg) (result flag : Byte) : State := (s.setV x result).setV regVF flag

end Sys2Proof.Machine
end

