-- ==== Sys2Proof/Machine/Arith.lean ====
section
/-! DEFINITION. The arithmetic instructions with flags (spec file 42_arithmetic_flags.md). -/

namespace Sys2Proof.Machine

/-- ADD Vx,Vy (R75). -/
def execAddReg (x y : Reg) (s : State) : Host.Outcome State Fault Refusal :=
  .next (s.advance.setVAndFlag x (addResult (s.getV x) (s.getV y)) (addCarry (s.getV x) (s.getV y)))

/-- SUB Vx,Vy (R76). -/
def execSubReg (x y : Reg) (s : State) : Host.Outcome State Fault Refusal :=
  .next (s.advance.setVAndFlag x (subResult (s.getV x) (s.getV y)) (subNoBorrow (s.getV x) (s.getV y)))

/-- SHR Vx (R77): the field y is don't-care and Vy is not read. -/
def execShr (x _y : Reg) (s : State) : Host.Outcome State Fault Refusal :=
  .next (s.advance.setVAndFlag x (shrResult (s.getV x)) (shrOut (s.getV x)))

/-- SUBN Vx,Vy (R78). -/
def execSubnReg (x y : Reg) (s : State) : Host.Outcome State Fault Refusal :=
  .next (s.advance.setVAndFlag x (subResult (s.getV y) (s.getV x)) (subNoBorrow (s.getV y) (s.getV x)))

/-- SHL Vx (R79): the field y is don't-care and Vy is not read. -/
def execShl (x _y : Reg) (s : State) : Host.Outcome State Fault Refusal :=
  .next (s.advance.setVAndFlag x (shlResult (s.getV x)) (shlOut (s.getV x)))

end Sys2Proof.Machine
end

