-- ==== Sys2Proof/Machine/Control.lean ====
section
/-! DEFINITION. The control flow instructions (spec file 40_control_flow.md). -/

namespace Sys2Proof.Machine

/-- CLS (R59). -/
def execCls (s : State) : Host.Outcome State Fault Refusal := .next { s.advance with fb := clearedFb, draw := true }

/-- RET (R60). -/
def execRet (s : State) : Host.Outcome State Fault Refusal :=
  match s.advance.pop with
  | none => raiseFault .stackUnderflow s
  | some (a, t) => .next (t.setPc a)

/-- JP addr (R61). -/
def execJp (addr : Word) (s : State) : Host.Outcome State Fault Refusal := .next (s.advance.setPc addr)

/-- CALL addr (R62): the pushed address is the advanced pc. -/
def execCall (addr : Word) (s : State) : Host.Outcome State Fault Refusal :=
  match s.advance.push s.advance.pc with
  | none => raiseFault .stackOverflow s
  | some t => .next (t.setPc addr)

/-- JP V0,addr (R63). -/
def execJpV0 (addr : Word) (s : State) : Host.Outcome State Fault Refusal :=
  .next (s.advance.setPc (addr + (s.getV 0).setWidth 16))

/-- SE Vx,byte (R64). -/
def execSeByte (x : Reg) (kk : Byte) (s : State) : Host.Outcome State Fault Refusal :=
  .next (s.advance.skipIf (s.getV x == kk))

/-- SNE Vx,byte (R65). -/
def execSneByte (x : Reg) (kk : Byte) (s : State) : Host.Outcome State Fault Refusal :=
  .next (s.advance.skipIf (s.getV x != kk))

/-- SE Vx,Vy (R66). -/
def execSeReg (x y : Reg) (s : State) : Host.Outcome State Fault Refusal :=
  .next (s.advance.skipIf (s.getV x == s.getV y))

/-- SNE Vx,Vy (R67). -/
def execSneReg (x y : Reg) (s : State) : Host.Outcome State Fault Refusal :=
  .next (s.advance.skipIf (s.getV x != s.getV y))

end Sys2Proof.Machine
end

