-- ==== Sys2Proof/Machine/Draw.lean ====
section
/-! DEFINITION. The sprite instruction (spec file 45_draw.md). -/

namespace Sys2Proof.Machine

/-- DRW Vx,Vy,n (R93): `MEM_RANGE` is checked before `PIXEL_RANGE`, both before any write (R92, R108). -/
def execDrw (x y : Reg) (n : Nat) (s : State) : Host.Outcome State Fault Refusal :=
  if s.reachable n then
    if pixelsFit (s.drawnPixels x y n) then
      let drawn := blit s.fb false (s.drawnPixels x y n)
      .next { s.advance.setV regVF (boolByte drawn.2) with fb := drawn.1, draw := true }
    else raiseFault .pixelRange s
  else raiseFault .memRange s

end Sys2Proof.Machine
end

