-- ==== Sys2Proof/Machine/IndexMem.lean ====
section
/-! DEFINITION. The index register and memory instructions (spec file 43_index_memory.md). -/

namespace Sys2Proof.Machine

/-- LD I,addr (R80). -/
def execLdI (addr : Word) (s : State) : Host.Outcome State Fault Refusal := .next (s.advance.setI addr)

/-- ADD I,Vx (R81): wraps at 16 bits, no flag. -/
def execAddI (x : Reg) (s : State) : Host.Outcome State Fault Refusal :=
  .next (s.advance.setI (s.iReg + (s.getV x).setWidth 16))

/-- LD F,Vx (R82). -/
def execLdF (x : Reg) (s : State) : Host.Outcome State Fault Refusal := .next (s.advance.setI (glyphAddress (s.getV x)))

/-- LD B,Vx (R83). -/
def execLdB (x : Reg) (s : State) : Host.Outcome State Fault Refusal :=
  if s.reachable 3 then .next (s.advance.writeAtI (decimalDigits (s.getV x))) else raiseFault .memRange s

/-- LD [I],Vx (R84): I is unchanged. -/
def execLdStore (x : Reg) (s : State) : Host.Outcome State Fault Refusal :=
  if s.reachable (x.val + 1) then .next (s.advance.writeAtI (s.regBlock (x.val + 1))) else raiseFault .memRange s

/-- LD Vx,[I] (R85): I is unchanged. -/
def execLdLoad (x : Reg) (s : State) : Host.Outcome State Fault Refusal :=
  if s.reachable (x.val + 1) then .next (s.advance.loadRegs (s.readAtI (x.val + 1)) (x.val + 1))
  else raiseFault .memRange s

end Sys2Proof.Machine
end

