-- ==== Sys2Proof/Machine/Input.lean ====
section
/-! DEFINITION. The keypad instructions (spec file 46_input.md). -/

namespace Sys2Proof.Machine

/-- SKP Vx (R96). -/
def execSkp (x : Reg) (s : State) : Host.Outcome State Fault Refusal :=
  match s.keyIndex x with
  | none => raiseFault .keyRange s
  | some k => .next (s.advance.skipIf (s.keyPressed k))

/-- SKNP Vx (R97). -/
def execSknp (x : Reg) (s : State) : Host.Outcome State Fault Refusal :=
  match s.keyIndex x with
  | none => raiseFault .keyRange s
  | some k => .next (s.advance.skipIf (!s.keyPressed k))

/-- LD Vx,K (R98): never waits; Vx is unchanged when no key is pressed. -/
def execLdVxK (x : Reg) (s : State) : Host.Outcome State Fault Refusal :=
  match s.lastPressed 16 with
  | none => .next s.advance
  | some k => .next (s.advance.setV x (BitVec.ofNat 8 k))

end Sys2Proof.Machine
end

