-- ==== Sys2Proof/Machine/Random.lean ====
section
/-! DEFINITION. The random number instruction (spec file 44_random.md). -/

namespace Sys2Proof.Machine

/-- RND Vx,byte (R90), in the mode the state holds (R89). -/
def execRnd (x : Reg) (kk : Byte) (s : State) : Host.Outcome State Fault Refusal :=
  .next (s.advance.afterRandom.setV x (s.randomWord.setWidth 8 &&& kk))

end Sys2Proof.Machine
end

