-- ==== Sys2Proof/Machine/RegImm.lean ====
section
/-! DEFINITION. The register and immediate instructions (spec file 41_register_immediate.md). -/

namespace Sys2Proof.Machine

/-- LD Vx,byte (R68). -/
def execLdByte (x : Reg) (kk : Byte) (s : State) : Host.Outcome State Fault Refusal := .next (s.advance.setV x kk)

/-- ADD Vx,byte (R69): no flag. -/
def execAddByte (x : Reg) (kk : Byte) (s : State) : Host.Outcome State Fault Refusal :=
  .next (s.advance.setV x (addResult (s.getV x) kk))

/-- LD Vx,Vy (R70). -/
def execLdReg (x y : Reg) (s : State) : Host.Outcome State Fault Refusal := .next (s.advance.setV x (s.getV y))

/-- OR Vx,Vy (R71): no flag. -/
def execOrReg (x y : Reg) (s : State) : Host.Outcome State Fault Refusal :=
  .next (s.advance.setV x (s.getV x ||| s.getV y))

/-- AND Vx,Vy (R72): no flag. -/
def execAndReg (x y : Reg) (s : State) : Host.Outcome State Fault Refusal :=
  .next (s.advance.setV x (s.getV x &&& s.getV y))

/-- XOR Vx,Vy (R73): no flag. -/
def execXorReg (x y : Reg) (s : State) : Host.Outcome State Fault Refusal :=
  .next (s.advance.setV x (s.getV x ^^^ s.getV y))

end Sys2Proof.Machine
end

