-- ==== Sys2Proof/Machine/Timers.lean ====
section
/-! DEFINITION. The timer instructions (spec file 47_timers.md); the tick itself is `State.tick`. -/

namespace Sys2Proof.Machine

/-- LD Vx,DT (R102): the value before this cycle's tick. -/
def execLdVxDt (x : Reg) (s : State) : Host.Outcome State Fault Refusal := .next (s.advance.setV x s.dt)

/-- LD DT,Vx (R103). -/
def execLdDtVx (x : Reg) (s : State) : Host.Outcome State Fault Refusal := .next (s.advance.setDt (s.getV x))

/-- LD ST,Vx (R104). -/
def execLdStVx (x : Reg) (s : State) : Host.Outcome State Fault Refusal := .next (s.advance.setSt (s.getV x))

end Sys2Proof.Machine
end

