-- ==== Sys2Proof/Machine/Step.lean ====
section
/-! DEFINITION. One cycle of CORE (R46): `step`, and a state with an instruction placed where it fetches. -/

namespace Sys2Proof.Machine

/-- One CYCLE request (R46): nothing while halted (R107), else fetch and decode, execute, tick. A fault of the fetch or
of the decode has the same entry as an instruction's own (R106). -/
def step (s : State) : Host.Outcome State Fault Refusal :=
  if s.halted then .next s.idleCycle
  else
    match s.fetchInstr with
    | .error reason => raiseFault reason s
    | .ok i => finishCycle (exec i s)

/-- The state with the opcode table's bits `w` stored as an instruction at `pc`: what a load of that word there leaves.
A program comes into CORE only by RESET's ROM (R119), so this stands for such a load. -/
def State.withFetchWord (s : State) (nbits w : Nat) : State := s.placeWord (tableWord nbits w)

end Sys2Proof.Machine
end

