-- ==== Sys2Proof/Machine/HostPort.lean ====
section
/-! DEFINITION. The ports of CORE (R5, R6, R115): RESET with its ROM, CYCLE, the key latch and DRAW_CLEAR as events that
come between cycles, and the host's views of the outputs. -/

namespace Sys2Proof.Machine

/-- The most bytes a ROM may have: memory from 0x200 up (R7, R120). -/
abbrev romMax : Nat := 3584

/-- What RESET takes beside the ROM and the seed: the parameters of R7, and the model's own `drawStart`. -/
structure Params where
  /-- `RNG_MODE`, by default `STREAM` (R89). -/
  rngMode : RngMode
  /-- `FONT` (R34). -/
  font : Vector Byte 80
  /-- Where in the sequence of free values `Config.draw32` the RNDs after this RESET begin, in mode `DRAW`. The spec
  leaves those values any (R89, U10), so a RESET may begin anywhere: neither that it replays earlier values nor that it does not
  is fixed. The model's own argument (DESIGN CHOICE, assumption 20). -/
  drawStart : Nat
  deriving DecidableEq, Repr

/-- The parameters at the defaults the spec gives them (R7), with the free values from the first on (DESIGN CHOICE,
assumption 20). -/
def Params.standard : Params where
  rngMode := .stream
  font := ⟨fontTable.toArray, by decide⟩
  drawStart := 0

/-- The state RESET builds from a ROM of legal length (R119): the font at 0x000, the ROM verbatim at 0x200, all else
zero, RNG at the seed. In mode `DRAW` the free values begin at `p.drawStart`, not at those of `State.reset` (DESIGN
CHOICE, assumption 20). -/
def State.built (p : Params) (rom : List Byte) (seed : Word32) : State :=
  { State.reset with
    rng := seed
    rngMode := p.rngMode
    drawCount := p.drawStart
    mem := (Memory.writeRange [] 0 p.font.toList).writeRange 0x200 rom }

/-- `RESET(rom, seed)` (R119): a ROM of 1 to 3584 bytes builds the whole state, any other gives
`BOOT_FAILED(ROM_SIZE)` and no state (R120). -/
def State.boot (p : Params) (rom : List Byte) (seed : Word32) : Host.Outcome State Fault Refusal :=
  if 0 < rom.length ∧ rom.length ≤ romMax then .next (State.built p rom seed) else .refused .bootFailedRomSize

/-- What the host may do to CORE, each between cycles (R5, R115). -/
inductive HostEvent where
  /-- `RESET(rom, seed)` on an implementation with the given parameters: at any time (R119). -/
  | reset (p : Params) (rom : List Byte) (seed : Word32)
  /-- `CYCLE`: one cycle (R46). -/
  | cycle
  /-- The key latch: key `k` is pressed or released (R22). -/
  | key (k : Fin 16) (pressed : Bool)
  /-- `DRAW_CLEAR`: the draw flag is cleared (R24). -/
  | drawClear
  deriving DecidableEq, Repr

/-- The latch with the host's write of one key (R22). -/
def State.setKey (s : State) (k : Fin 16) (pressed : Bool) : State :=
  { s with
    keys := if pressed then s.keys ||| BitVec.twoPow 16 k.val else s.keys &&& ~~~(BitVec.twoPow 16 k.val) }

/-- The draw flag cleared by the rendering collaborator (R24). -/
def State.clearDraw (s : State) : State := { s with draw := false }

/-- One event of the host on a running CORE (R115). RESET discards the state it finds. -/
def hostStep (e : HostEvent) (s : State) : Host.Outcome State Fault Refusal :=
  match e with
  | .reset p rom seed => State.boot p rom seed
  | .cycle => step s
  | .key k pressed => .next (s.setKey k pressed)
  | .drawClear => .next s.clearDraw

/-- One event on CORE as the events before left it. While no state is built, nothing but a RESET with a legal ROM builds
one (R120). -/
def hostEvent (e : HostEvent) (o : Host.Outcome State Fault Refusal) : Host.Outcome State Fault Refusal :=
  match o with
  | .next s => hostStep e s
  | .fault r => .fault r
  | .refused r =>
    match e with
    | .reset p rom seed => State.boot p rom seed
    | .cycle => .refused r
    | .key _ _ => .refused r
    | .drawClear => .refused r

/-- The events one after another. -/
def hostRun : List HostEvent → Host.Outcome State Fault Refusal → Host.Outcome State Fault Refusal
  | [], o => o
  | e :: rest, o => hostRun rest (hostEvent e o)

/-- What the host sees of CORE (R6). -/
structure Outputs where
  /-- `FB` -/
  fb : Framebuffer
  /-- `DRAW` -/
  draw : Bool
  /-- `BEEP` in the latest cycle -/
  beep : Bool
  /-- `HALTED` -/
  halted : Bool
  /-- `FAULT` -/
  fault : Option FaultRecord
  deriving DecidableEq, Repr

/-- The outputs of a state, read between cycles (R6). -/
def State.outputs (s : State) : Outputs where
  fb := s.fb
  draw := s.draw
  beep := s.beep
  halted := s.halted
  fault := s.fault

end Sys2Proof.Machine
end

