-- ==== Sys2Proof/Safety.lean ====
section
/-! DEFINITION. What a run may be claimed to keep: the invariants of CORE and the frames of its instructions, in the
terms the statements use. -/

namespace Sys2Proof.Machine

/-! ## Invariants -/

/-- Memory is in its canonical form. -/
abbrev State.MemOk (s : State) : Prop := s.mem.wf

/-- `pc` never wraps and stays at or below 0x10FE, and every return address in the stack at or below 0x1000 (R18). -/
abbrev State.PcBounded (s : State) : Prop :=
  s.pc.toNat ≤ 0x10FE ∧ ∀ k, k < 15 → (s.stackAt k).toNat ≤ 0x1000

/-- FAULT is empty exactly while HALTED = 0, and no BEEP is asserted while halted (R27, R106, R107). -/
abbrev State.RunStatusOk (s : State) : Prop :=
  s.halted = s.fault.isSome ∧ (s.halted = true → s.beep = false)

/-- The fault record tells of the frozen state: its pc is the pc of the faulting cycle, which the fault left in place,
and its opcode is the word there, or none for `FETCH_RANGE` (R106). -/
abbrev State.RecordOk (s : State) : Prop :=
  ∀ r, s.fault = some r → r.pc = s.pc ∧ r.opcode = s.faultOpcode r.reason

/-- The invariants together. -/
abbrev State.Inv (s : State) : Prop := s.MemOk ∧ s.PcBounded ∧ s.RunStatusOk ∧ s.RecordOk

/-! ## Frames: what stays as it was from `s` to `t` -/

/-- Every V register but those in `written`. -/
abbrev SameV (written : List Reg) (s t : State) : Prop := ∀ r : Reg, r ∉ written → t.getV r = s.getV r

/-- The index register. -/
abbrev SameI (s t : State) : Prop := t.iReg = s.iReg

/-- The stack pointer and all fifteen stack entries. -/
abbrev SameStack (s t : State) : Prop := t.sp = s.sp ∧ ∀ k, t.stackAt k = s.stackAt k

/-- Both timers. -/
abbrev SameTimers (s t : State) : Prop := t.dt = s.dt ∧ t.st = s.st

/-- The framebuffer and the draw flag. -/
abbrev SameScreen (s t : State) : Prop := (∀ p, t.pixel p = s.pixel p) ∧ t.draw = s.draw

/-- Every byte of memory. -/
abbrev SameMem (s t : State) : Prop := ∀ a, t.readMem a = s.readMem a

/-- Every byte of memory outside the `n` bytes at address `a`. -/
abbrev SameMemOutside (a n : Nat) (s t : State) : Prop :=
  ∀ b, b < a ∨ a + n ≤ b → t.readMem b = s.readMem b

/-- The random generator: its state and the place of the next free value. -/
abbrev SameRandom (s t : State) : Prop := t.rng = s.rng ∧ t.drawCount = s.drawCount

/-- What no instruction writes: the key latch, the mode of RND. -/
abbrev SameInputs (s t : State) : Prop := t.keys = s.keys ∧ t.rngMode = s.rngMode

/-- The run status, the fault record and the BEEP output. -/
abbrev SameStatus (s t : State) : Prop := t.halted = s.halted ∧ t.fault = s.fault ∧ t.beep = s.beep

/-- Everything but the registers in `written` and the pc. -/
abbrev SameButV (written : List Reg) (s t : State) : Prop :=
  SameV written s t ∧ SameI s t ∧ SameStack s t ∧ SameTimers s t ∧ SameScreen s t ∧ SameMem s t ∧
    SameRandom s t ∧ SameInputs s t ∧ SameStatus s t

/-- The state is that of a fault entry: as before, but halted with the record of `reason` and no BEEP (R106). -/
abbrev FaultedFrom (reason : FaultReason) (s t : State) : Prop :=
  t = { s with
    halted := true
    fault := some { reason := reason, pc := s.pc, opcode := if reason = .fetchRange then none else some s.fetchWord }
    beep := false }

/-- Everything but the pc. -/
abbrev SameButPc (s t : State) : Prop := SameButV [] s t

/-! ## Words written from the patterns of R52 -/

/-- A pattern with `nnn`: the word `base` with `addr` in bits 11..0. -/
abbrev wordNnn (base : Nat) (addr : Word) : Word := BitVec.ofNat 16 (base + addr.toNat)

/-- A pattern with `x` and `kk`: the word `base` with `x` in bits 11..8 and `kk` in bits 7..0. -/
abbrev wordXkk (base : Nat) (x : Reg) (kk : Byte) : Word := BitVec.ofNat 16 (base + x.val * 0x100 + kk.toNat)

/-- A pattern with `x` and `y`: the word `base` with `x` in bits 11..8 and `y` in bits 7..4. -/
abbrev wordXy (base : Nat) (x y : Reg) : Word := BitVec.ofNat 16 (base + x.val * 0x100 + y.val * 0x10)

/-- A pattern with `x` alone: the word `base` with `x` in bits 11..8. -/
abbrev wordX (base : Nat) (x : Reg) : Word := BitVec.ofNat 16 (base + x.val * 0x100)

/-- The word is the encoding of the instruction, in both directions. -/
abbrev Encodes (w : Word) (i : Instr) : Prop := decode w = .known i ∧ encode i = w

/-! ## What R13, R91 and R55 say of instructions, sprites and words -/

/-- The V registers an instruction reads (the column "reads" of R13). -/
def readV (i : Instr) : List Reg :=
  match i with
  | .seByte x _ | .sneByte x _ | .addByte x _ => [x]
  | .seReg x y | .sneReg x y => [x, y]
  | .ldReg _ y => [y]
  | .orReg x y | .andReg x y | .xorReg x y | .addReg x y | .subReg x y | .subnReg x y => [x, y]
  | .shr x _ | .shl x _ => [x]
  | .jpV0 _ => [0]
  | .drw x y _ => [x, y]
  | .skp x | .sknp x => [x]
  | .ldDtVx x | .ldStVx x | .addI x | .ldF x | .ldB x => [x]
  | .ldStore x => (List.finRange 16).filter (fun r => r ≤ x)
  | .cls | .ret | .jp _ | .call _ | .ldByte _ _ | .ldI _ | .rnd _ _ | .ldVxDt _ | .ldVxK _ | .ldLoad _ => []

/-- The V registers an instruction writes (the column "writes" of R13). -/
def writtenV (i : Instr) : List Reg :=
  match i with
  | .ldByte x _ | .addByte x _ | .ldReg x _ | .orReg x _ | .andReg x _ | .xorReg x _ | .rnd x _ | .ldVxDt x
  | .ldVxK x => [x]
  | .addReg x _ | .subReg x _ | .subnReg x _ | .shr x _ | .shl x _ => [x, regVF]
  | .drw _ _ _ => [regVF]
  | .ldLoad x => (List.finRange 16).filter (fun r => r ≤ x)
  | .cls | .ret | .jp _ | .call _ | .seByte _ _ | .sneByte _ _ | .seReg _ _ | .sneReg _ _ | .ldI _ | .jpV0 _ | .skp _
  | .sknp _ | .ldDtVx _ | .ldStVx _ | .addI _ | .ldF _ | .ldB _ | .ldStore _ => []

/-- A set bit of the sprite of DRW Vx,Vy,n addresses the framebuffer index `p`: bit 7 - col of the byte at I + row, with
p = (Vy + row) * 64 + (Vx + col), as exact integers (R91). -/
abbrev SpriteSets (s : State) (x y : Reg) (n p : Nat) : Prop :=
  ∃ row, row < n ∧ ∃ col, col < 8 ∧ (s.readMem (s.iReg.toNat + row)).getLsbD (7 - col) = true ∧
    p = ((s.getV y).toNat + row) * 64 + ((s.getV x).toNat + col)

/-- The n sprite bytes at I exist (R35, R93). -/
abbrev SpriteInMemory (s : State) (n : Nat) : Prop := n = 0 ∨ s.iReg.toNat + n - 1 ≤ 0xFFF

/-- The conditions under which an instruction raises a fault of its own (the table of R105, with the order of R108). -/
def Raises (i : Instr) (s : State) (reason : FaultReason) : Prop :=
  match i with
  | .call _ => reason = .stackOverflow ∧ s.sp.val = 15
  | .ret => reason = .stackUnderflow ∧ s.sp.val = 0
  | .drw x y n =>
    (reason = .memRange ∧ ¬ SpriteInMemory s n) ∨
      (reason = .pixelRange ∧ SpriteInMemory s n ∧ ∃ p, 2047 < p ∧ SpriteSets s x y n p)
  | .ldB _ => reason = .memRange ∧ 0xFFF < s.iReg.toNat + 2
  | .ldStore x | .ldLoad x => reason = .memRange ∧ 0xFFF < s.iReg.toNat + x.val
  | .skp x | .sknp x => reason = .keyRange ∧ 15 < (s.getV x).toNat
  | .cls | .jp _ | .seByte _ _ | .sneByte _ _ | .seReg _ _ | .ldByte _ _ | .addByte _ _ | .ldReg _ _ | .orReg _ _
  | .andReg _ _ | .xorReg _ _ | .addReg _ _ | .subReg _ _ | .shr _ _ | .subnReg _ _ | .shl _ _ | .sneReg _ _ | .ldI _
  | .jpV0 _ | .rnd _ _ | .ldVxDt _ | .ldVxK _ | .ldDtVx _ | .ldStVx _ | .addI _ | .ldF _ => False

/-- The words R55 lists as illegal. -/
def illegalWord (w : Word) : Bool :=
  let n := w.toNat % 16
  let kk := w.toNat % 256
  match w.toNat / 4096 with
  | 0x0 => w != 0x00E0 && w != 0x00EE
  | 0x5 => n != 0
  | 0x8 => [0x8, 0x9, 0xA, 0xB, 0xC, 0xD, 0xF].contains n
  | 0x9 => n != 0
  | 0xE => kk != 0x9E && kk != 0xA1
  | 0xF => !([0x07, 0x0A, 0x15, 0x18, 0x1E, 0x29, 0x33, 0x55, 0x65].contains kk)
  | _ => false

end Sys2Proof.Machine
end

