-- ==== Sys2Proof/Certificates/Slice0/Obligations.lean ====
section
/-! DEFINITION. The statements about CORE, from the numbered rules of its spec. An instruction's statement says how its
words are encoded, that it answers a next state and which, its faults, and what it leaves unchanged; `s` is the state in
which the cycle begins, so its pc is the instruction's own address. -/

open Sys2Proof Sys2Proof.Machine

/-! ## Control flow -/

/-- R59: CLS zeroes the framebuffer and sets the draw flag. -/
def Obligations.ClsClearsTheScreen : Prop :=
  Encodes 0x00E0 .cls ∧ (∀ w, decode w = .known .cls → w = 0x00E0) ∧
  ∀ s : State, ∃ t, exec .cls s = .next t ∧ (∀ p, t.pixel p = false) ∧ t.draw = true ∧ t.pc = s.pc + 2 ∧
    SameV [] s t ∧ SameI s t ∧ SameStack s t ∧ SameTimers s t ∧ SameMem s t ∧ SameRandom s t ∧ SameInputs s t ∧
    SameStatus s t

/-- R60: RET pops the return address into pc, and faults on an empty stack. The popped entry keeps its value. -/
def Obligations.RetPopsTheReturnAddress : Prop :=
  Encodes 0x00EE .ret ∧ (∀ w, decode w = .known .ret → w = 0x00EE) ∧
  ∀ s : State,
    (s.sp.val = 0 → ∃ t, exec .ret s = .next t ∧ FaultedFrom .stackUnderflow s t) ∧
    (0 < s.sp.val → ∃ t, exec .ret s = .next t ∧ t.sp.val = s.sp.val - 1 ∧ t.pc = s.stackAt (s.sp.val - 1) ∧
      (∀ k, t.stackAt k = s.stackAt k) ∧ SameV [] s t ∧ SameI s t ∧ SameTimers s t ∧ SameScreen s t ∧ SameMem s t ∧
      SameRandom s t ∧ SameInputs s t ∧ SameStatus s t)

/-- R62: CALL pushes the address after itself and jumps, and faults when fifteen addresses are held. -/
def Obligations.CallPushesAndJumps : Prop :=
  (∀ addr : Word, addr.toNat < 4096 → Encodes (wordNnn 0x2000 addr) (.call addr)) ∧
  ∀ (addr : Word) (s : State),
    (s.sp.val = 15 → ∃ t, exec (.call addr) s = .next t ∧ FaultedFrom .stackOverflow s t) ∧
    (s.sp.val < 15 → ∃ t, exec (.call addr) s = .next t ∧ t.sp.val = s.sp.val + 1 ∧ t.pc = addr ∧
      t.stackAt s.sp.val = s.pc + 2 ∧ (∀ k, k ≠ s.sp.val → t.stackAt k = s.stackAt k) ∧ SameV [] s t ∧ SameI s t ∧
      SameTimers s t ∧ SameScreen s t ∧ SameMem s t ∧ SameRandom s t ∧ SameInputs s t ∧ SameStatus s t)

/-- R61: JP loads pc with nnn, checked only at the next fetch. -/
def Obligations.JumpLoadsPc : Prop :=
  (∀ addr : Word, addr.toNat < 4096 → Encodes (wordNnn 0x1000 addr) (.jp addr)) ∧
  ∀ (addr : Word) (s : State), ∃ t, exec (.jp addr) s = .next t ∧ t.pc = addr ∧ SameButPc s t

/-- R63: JP V0,addr loads pc with nnn + V0, not masked to 12 bits and with no wrap. -/
def Obligations.JumpV0AddsWithoutWrap : Prop :=
  (∀ addr : Word, addr.toNat < 4096 → Encodes (wordNnn 0xB000 addr) (.jpV0 addr)) ∧
  ∀ (addr : Word) (s : State), addr.toNat < 4096 →
    ∃ t, exec (.jpV0 addr) s = .next t ∧ t.pc.toNat = addr.toNat + (s.getV 0).toNat ∧ SameButPc s t

/-- R64, R65: SE Vx,byte and SNE Vx,byte skip the next word when Vx equals, or differs from, kk. -/
def Obligations.SkipOnByte : Prop :=
  ∀ (x : Reg) (kk : Byte),
    Encodes (wordXkk 0x3000 x kk) (.seByte x kk) ∧ Encodes (wordXkk 0x4000 x kk) (.sneByte x kk) ∧
    ∀ s : State,
      (∃ t, exec (.seByte x kk) s = .next t ∧ t.pc = (if s.getV x = kk then s.pc + 4 else s.pc + 2) ∧
        SameButPc s t) ∧
      (∃ t, exec (.sneByte x kk) s = .next t ∧ t.pc = (if s.getV x = kk then s.pc + 2 else s.pc + 4) ∧
        SameButPc s t)

/-- R66, R67: SE Vx,Vy and SNE Vx,Vy skip the next word when Vx equals, or differs from, Vy. -/
def Obligations.SkipOnRegisters : Prop :=
  ∀ x y : Reg,
    Encodes (wordXy 0x5000 x y) (.seReg x y) ∧ Encodes (wordXy 0x9000 x y) (.sneReg x y) ∧
    ∀ s : State,
      (∃ t, exec (.seReg x y) s = .next t ∧ t.pc = (if s.getV x = s.getV y then s.pc + 4 else s.pc + 2) ∧
        SameButPc s t) ∧
      (∃ t, exec (.sneReg x y) s = .next t ∧ t.pc = (if s.getV x = s.getV y then s.pc + 2 else s.pc + 4) ∧
        SameButPc s t)

/-! ## Register and immediate -/

/-- R68, R70: LD Vx,byte and LD Vx,Vy write Vx with the immediate or with Vy. -/
def Obligations.LoadByteAndCopyRegister : Prop :=
  (∀ (x : Reg) (kk : Byte), Encodes (wordXkk 0x6000 x kk) (.ldByte x kk) ∧
    ∀ s : State, ∃ t, exec (.ldByte x kk) s = .next t ∧ t.getV x = kk ∧ t.pc = s.pc + 2 ∧ SameButV [x] s t) ∧
  (∀ x y : Reg, Encodes (wordXy 0x8000 x y) (.ldReg x y) ∧
    ∀ s : State, ∃ t, exec (.ldReg x y) s = .next t ∧ t.getV x = s.getV y ∧ t.pc = s.pc + 2 ∧ SameButV [x] s t)

/-- R69: ADD Vx,byte adds modulo 256 and writes no flag. -/
def Obligations.AddByteWrapsWithoutFlag : Prop :=
  ∀ (x : Reg) (kk : Byte), Encodes (wordXkk 0x7000 x kk) (.addByte x kk) ∧
    ∀ s : State, ∃ t, exec (.addByte x kk) s = .next t ∧
      (t.getV x).toNat = ((s.getV x).toNat + kk.toNat) % 256 ∧ t.pc = s.pc + 2 ∧ SameButV [x] s t

/-- R71, R72, R73: OR, AND and XOR combine Vx with Vy bit by bit into Vx and write no flag. -/
def Obligations.BitwiseOperations : Prop :=
  ∀ x y : Reg,
    Encodes (wordXy 0x8001 x y) (.orReg x y) ∧ Encodes (wordXy 0x8002 x y) (.andReg x y) ∧
    Encodes (wordXy 0x8003 x y) (.xorReg x y) ∧
    ∀ s : State,
      (∃ t, exec (.orReg x y) s = .next t ∧
        (∀ b, (t.getV x).getLsbD b = ((s.getV x).getLsbD b || (s.getV y).getLsbD b)) ∧ t.pc = s.pc + 2 ∧
        SameButV [x] s t) ∧
      (∃ t, exec (.andReg x y) s = .next t ∧
        (∀ b, (t.getV x).getLsbD b = ((s.getV x).getLsbD b && (s.getV y).getLsbD b)) ∧ t.pc = s.pc + 2 ∧
        SameButV [x] s t) ∧
      (∃ t, exec (.xorReg x y) s = .next t ∧
        (∀ b, (t.getV x).getLsbD b = ((s.getV x).getLsbD b ^^ (s.getV y).getLsbD b)) ∧ t.pc = s.pc + 2 ∧
        SameButV [x] s t)

/-! ## Arithmetic with flags -/

/-- R75: ADD Vx,Vy writes the sum modulo 256 to Vx and then the carry to VF; with x = 15 VF holds the carry. -/
def Obligations.AddSetsCarry : Prop :=
  ∀ x y : Reg, Encodes (wordXy 0x8004 x y) (.addReg x y) ∧
    ∀ s : State, ∃ t, exec (.addReg x y) s = .next t ∧
      (x ≠ 15 → (t.getV x).toNat = ((s.getV x).toNat + (s.getV y).toNat) % 256) ∧
      t.getV 15 = (if 255 < (s.getV x).toNat + (s.getV y).toNat then 1 else 0) ∧ t.pc = s.pc + 2 ∧
      SameButV [x, 15] s t

/-- R76: SUB Vx,Vy writes Vx - Vy modulo 256 to Vx and then VF = 1 iff Vx > Vy; with x = 15 VF holds the flag. -/
def Obligations.SubSetsNoBorrow : Prop :=
  ∀ x y : Reg, Encodes (wordXy 0x8005 x y) (.subReg x y) ∧
    ∀ s : State, ∃ t, exec (.subReg x y) s = .next t ∧
      (x ≠ 15 → (t.getV x).toNat =
        if (s.getV y).toNat ≤ (s.getV x).toNat then (s.getV x).toNat - (s.getV y).toNat
        else (s.getV x).toNat + 256 - (s.getV y).toNat) ∧
      t.getV 15 = (if (s.getV y).toNat < (s.getV x).toNat then 1 else 0) ∧ t.pc = s.pc + 2 ∧ SameButV [x, 15] s t

/-- R78: SUBN Vx,Vy writes Vy - Vx modulo 256 to Vx and then VF = 1 iff Vy > Vx; with x = 15 VF holds the flag. -/
def Obligations.SubnSetsNoBorrow : Prop :=
  ∀ x y : Reg, Encodes (wordXy 0x8007 x y) (.subnReg x y) ∧
    ∀ s : State, ∃ t, exec (.subnReg x y) s = .next t ∧
      (x ≠ 15 → (t.getV x).toNat =
        if (s.getV x).toNat ≤ (s.getV y).toNat then (s.getV y).toNat - (s.getV x).toNat
        else (s.getV y).toNat + 256 - (s.getV x).toNat) ∧
      t.getV 15 = (if (s.getV x).toNat < (s.getV y).toNat then 1 else 0) ∧ t.pc = s.pc + 2 ∧ SameButV [x, 15] s t

/-- R77: SHR Vx halves Vx and then writes the old bit 0 to VF, for every value of the don't-care field y. -/
def Obligations.ShrShiftsOutBitZero : Prop :=
  ∀ x y : Reg, Encodes (wordXy 0x8006 x y) (.shr x y) ∧
    ∀ s : State, ∃ t, exec (.shr x y) s = .next t ∧
      (x ≠ 15 → (t.getV x).toNat = (s.getV x).toNat / 2) ∧ (t.getV 15).toNat = (s.getV x).toNat % 2 ∧
      t.pc = s.pc + 2 ∧ SameButV [x, 15] s t

/-- R79: SHL Vx doubles Vx modulo 256 and then writes the old bit 7 to VF, for every value of the don't-care y. -/
def Obligations.ShlShiftsOutBitSeven : Prop :=
  ∀ x y : Reg, Encodes (wordXy 0x800E x y) (.shl x y) ∧
    ∀ s : State, ∃ t, exec (.shl x y) s = .next t ∧
      (x ≠ 15 → (t.getV x).toNat = 2 * (s.getV x).toNat % 256) ∧ (t.getV 15).toNat = (s.getV x).toNat / 128 ∧
      t.pc = s.pc + 2 ∧ SameButV [x, 15] s t

/-! ## Index register and memory -/

/-- R80, R81, R82: LD I,addr, ADD I,Vx (modulo 2^16, no flag) and LD F,Vx (no masking) write I. -/
def Obligations.IndexRegisterWrites : Prop :=
  (∀ addr : Word, addr.toNat < 4096 → Encodes (wordNnn 0xA000 addr) (.ldI addr)) ∧
  (∀ x : Reg, Encodes (wordX 0xF01E x) (.addI x) ∧ Encodes (wordX 0xF029 x) (.ldF x)) ∧
  ∀ s : State,
    (∀ addr : Word, ∃ t, exec (.ldI addr) s = .next t ∧ t.iReg = addr ∧ t.pc = s.pc + 2 ∧ SameV [] s t ∧
      SameStack s t ∧ SameTimers s t ∧ SameScreen s t ∧ SameMem s t ∧ SameRandom s t ∧ SameInputs s t ∧
      SameStatus s t) ∧
    (∀ x : Reg, ∃ t, exec (.addI x) s = .next t ∧ t.iReg.toNat = (s.iReg.toNat + (s.getV x).toNat) % 65536 ∧
      t.pc = s.pc + 2 ∧ SameV [] s t ∧ SameStack s t ∧ SameTimers s t ∧ SameScreen s t ∧ SameMem s t ∧
      SameRandom s t ∧ SameInputs s t ∧ SameStatus s t) ∧
    (∀ x : Reg, ∃ t, exec (.ldF x) s = .next t ∧ t.iReg.toNat = (s.getV x).toNat * 5 ∧ t.pc = s.pc + 2 ∧
      SameV [] s t ∧ SameStack s t ∧ SameTimers s t ∧ SameScreen s t ∧ SameMem s t ∧ SameRandom s t ∧
      SameInputs s t ∧ SameStatus s t)

/-- R83: LD B,Vx stores the three decimal digits of Vx at I, I+1, I+2, and faults with nothing written when I + 2 is
above 0xFFF. -/
def Obligations.StoreDecimalDigits : Prop :=
  ∀ x : Reg, Encodes (wordX 0xF033 x) (.ldB x) ∧
    ∀ s : State,
      (0xFFF < s.iReg.toNat + 2 → ∃ t, exec (.ldB x) s = .next t ∧ FaultedFrom .memRange s t) ∧
      (s.iReg.toNat + 2 ≤ 0xFFF → ∃ t, exec (.ldB x) s = .next t ∧
        (t.readMem s.iReg.toNat).toNat = (s.getV x).toNat / 100 ∧
        (t.readMem (s.iReg.toNat + 1)).toNat = (s.getV x).toNat / 10 % 10 ∧
        (t.readMem (s.iReg.toNat + 2)).toNat = (s.getV x).toNat % 10 ∧
        SameMemOutside s.iReg.toNat 3 s t ∧ t.pc = s.pc + 2 ∧ SameV [] s t ∧ SameI s t ∧ SameStack s t ∧
        SameTimers s t ∧ SameScreen s t ∧ SameRandom s t ∧ SameInputs s t ∧ SameStatus s t)

/-- R84: LD [I],Vx stores V0 to Vx at I, leaving I unchanged, and faults with nothing written when I + x is above
0xFFF. -/
def Obligations.StoreRegisterBlock : Prop :=
  ∀ x : Reg, Encodes (wordX 0xF055 x) (.ldStore x) ∧
    ∀ s : State,
      (0xFFF < s.iReg.toNat + x.val → ∃ t, exec (.ldStore x) s = .next t ∧ FaultedFrom .memRange s t) ∧
      (s.iReg.toNat + x.val ≤ 0xFFF → ∃ t, exec (.ldStore x) s = .next t ∧
        (∀ r : Reg, r ≤ x → t.readMem (s.iReg.toNat + r.val) = s.getV r) ∧
        SameMemOutside s.iReg.toNat (x.val + 1) s t ∧ t.pc = s.pc + 2 ∧ SameV [] s t ∧ SameI s t ∧ SameStack s t ∧
        SameTimers s t ∧ SameScreen s t ∧ SameRandom s t ∧ SameInputs s t ∧ SameStatus s t)

/-- R85: LD Vx,[I] loads V0 to Vx from I, leaving I unchanged, and faults with nothing written when I + x is above
0xFFF. -/
def Obligations.LoadRegisterBlock : Prop :=
  ∀ x : Reg, Encodes (wordX 0xF065 x) (.ldLoad x) ∧
    ∀ s : State,
      (0xFFF < s.iReg.toNat + x.val → ∃ t, exec (.ldLoad x) s = .next t ∧ FaultedFrom .memRange s t) ∧
      (s.iReg.toNat + x.val ≤ 0xFFF → ∃ t, exec (.ldLoad x) s = .next t ∧
        (∀ r : Reg, r ≤ x → t.getV r = s.readMem (s.iReg.toNat + r.val)) ∧
        (∀ r : Reg, x < r → t.getV r = s.getV r) ∧ t.pc = s.pc + 2 ∧ SameI s t ∧ SameStack s t ∧ SameTimers s t ∧
        SameScreen s t ∧ SameMem s t ∧ SameRandom s t ∧ SameInputs s t ∧ SameStatus s t)

/-- R44 with R84: a store of V0 and V1 over the next instruction is what the next fetch reads. -/
def Obligations.StoreIntoCodeIsFetchedNext : Prop :=
  ∀ (x : Reg) (s : State), 1 ≤ x.val → s.iReg.toNat + x.val ≤ 0xFFF → s.iReg.toNat = s.pc.toNat + 2 →
    ∃ t, exec (.ldStore x) s = .next t ∧ t.fetchWord.toNat = (s.getV 0).toNat * 256 + (s.getV 1).toNat

/-- R85 with R84: a store and then a load of the same block at the same I restores V0 to Vx, whatever the registers
hold in between. -/
def Obligations.StoreThenLoadRestoresBlock : Prop :=
  ∀ (x : Reg) (s : State), s.iReg.toNat + x.val ≤ 0xFFF →
    ∃ t, exec (.ldStore x) s = .next t ∧
      ∀ s' : State, s'.mem = t.mem → s'.iReg = t.iReg →
        ∃ u, exec (.ldLoad x) s' = .next u ∧ ∀ r : Reg, r ≤ x → u.getV r = s.getV r

/-! ## Random numbers -/

/-- R86: in mode STREAM RND advances RNG by the three xorshift steps, once, and masks the low byte of the new state with
kk (R90). -/
def Obligations.RandomByteOfTheStream : Prop :=
  ∀ (x : Reg) (kk : Byte), Encodes (wordXkk 0xC000 x kk) (.rnd x kk) ∧
    ∀ s : State, s.rngMode = .stream →
      ∃ t, exec (.rnd x kk) s = .next t ∧
        (∃ x1 x2 x3 : Word32, x1 = s.rng ^^^ (s.rng <<< 13) ∧ x2 = x1 ^^^ (x1 >>> 17) ∧ x3 = x2 ^^^ (x2 <<< 5) ∧
          t.rng = x3 ∧ t.getV x = x3.setWidth 8 &&& kk) ∧
        t.drawCount = s.drawCount ∧ t.pc = s.pc + 2 ∧ SameV [x] s t ∧ SameI s t ∧ SameStack s t ∧ SameTimers s t ∧
        SameScreen s t ∧ SameMem s t ∧ SameInputs s t ∧ SameStatus s t

/-- R89, R90: in mode DRAW RND leaves RNG unchanged and masks the low byte of a 32-bit value that the spec leaves free. The
model's choice (assumption 7): a draw at `drawCount` = k gets `Config.draw32 k`, a constant with no body, so this holds whatever the
value is. -/
def Obligations.RandomByteOfTheDraw : Prop :=
  ∀ (x : Reg) (kk : Byte) (s : State), s.rngMode = .draw →
    ∃ t, exec (.rnd x kk) s = .next t ∧ t.rng = s.rng ∧ t.drawCount = s.drawCount + 1 ∧
      t.getV x = (Config.draw32 s.drawCount).setWidth 8 &&& kk ∧ t.pc = s.pc + 2 ∧ SameV [x] s t ∧ SameI s t ∧
      SameStack s t ∧ SameTimers s t ∧ SameScreen s t ∧ SameMem s t ∧ SameInputs s t ∧ SameStatus s t

/-- R87: in mode STREAM the step of RNG is invertible and sends 0 to 0, so the state 0 stays 0 and RND then writes 0, and no
other state becomes 0. -/
def Obligations.StreamIsInvertibleAndFixesZero : Prop :=
  ∀ (x : Reg) (kk : Byte) (s s' : State), s.rngMode = .stream → s'.rngMode = .stream →
    ∃ t t', exec (.rnd x kk) s = .next t ∧ exec (.rnd x kk) s' = .next t' ∧ (t.rng = t'.rng ↔ s.rng = s'.rng) ∧
      (t.rng = 0 ↔ s.rng = 0) ∧ (s.rng = 0 → t.getV x = 0)

/-! ## Drawing -/

/-- R91, R92, R93: DRW faults first when its sprite bytes pass 0xFFF, then when a set bit lands past index 2047, with
nothing written; otherwise it inverts exactly the pixels its set bits address, VF = 1 iff one of those was set, and DRAW
is set. -/
def Obligations.DrawInvertsAddressedPixels : Prop :=
  (∀ (x y : Reg) (n : Nat), n < 16 → Encodes (wordXy (0xD000 + n) x y) (.drw x y n)) ∧
  ∀ (x y : Reg) (n : Nat) (s : State),
    (¬ SpriteInMemory s n → ∃ t, exec (.drw x y n) s = .next t ∧ FaultedFrom .memRange s t) ∧
    (SpriteInMemory s n → (∃ p, 2047 < p ∧ SpriteSets s x y n p) →
      ∃ t, exec (.drw x y n) s = .next t ∧ FaultedFrom .pixelRange s t) ∧
    (SpriteInMemory s n → (∀ p, SpriteSets s x y n p → p ≤ 2047) →
      ∃ t, exec (.drw x y n) s = .next t ∧
        (∀ p, SpriteSets s x y n p → t.pixel p = !s.pixel p) ∧
        (∀ p, ¬ SpriteSets s x y n p → t.pixel p = s.pixel p) ∧
        ((∃ p, SpriteSets s x y n p ∧ s.pixel p = true) → t.getV 15 = 1) ∧
        ((∀ p, SpriteSets s x y n p → s.pixel p = false) → t.getV 15 = 0) ∧
        t.draw = true ∧ t.pc = s.pc + 2 ∧ SameV [15] s t ∧ SameI s t ∧ SameStack s t ∧ SameTimers s t ∧
        SameMem s t ∧ SameRandom s t ∧ SameInputs s t ∧ SameStatus s t)

/-- R94: a second draw of the same sprite at the same place restores the framebuffer, and collides iff some set sprite
bit addresses a pixel that was 0 before the first draw. Between the two draws anything but FB, Vx, Vy, I and the sprite
bytes may change. -/
def Obligations.DrawingTwiceRestoresTheScreen : Prop :=
  ∀ (x y : Reg) (n : Nat) (s : State), x ≠ 15 → y ≠ 15 → SpriteInMemory s n →
    (∀ p, SpriteSets s x y n p → p ≤ 2047) →
    ∃ t, exec (.drw x y n) s = .next t ∧
      ∀ s' : State, (∀ p, s'.pixel p = t.pixel p) → s'.getV x = t.getV x → s'.getV y = t.getV y → SameI t s' →
        (∀ k, k < n → s'.readMem (t.iReg.toNat + k) = t.readMem (t.iReg.toNat + k)) →
        ∃ u, exec (.drw x y n) s' = .next u ∧ (∀ p, u.pixel p = s.pixel p) ∧
          ((∃ p, SpriteSets s x y n p ∧ s.pixel p = false) → u.getV 15 = 1) ∧
          ((∀ p, SpriteSets s x y n p → s.pixel p = true) → u.getV 15 = 0) ∧
          ((∀ p, s.pixel p = false) → (u.getV 15 = 1 ↔ ∃ p, SpriteSets s x y n p))

/-- R95: two bits of one sprite address the same index only if they are the same bit; so the list of indices a draw walks
has no repeats, and walking it in another order gives the same framebuffer and the same collision. -/
def Obligations.SpriteBitsAddressDistinctPixels : Prop :=
  (∀ cx cy row1 row2 col1 col2 : Nat, col1 < 8 → col2 < 8 →
    (cy + row1) * 64 + (cx + col1) = (cy + row2) * 64 + (cx + col2) → row1 = row2 ∧ col1 = col2) ∧
  ∀ (s : State) (x y : Reg) (n : Nat), (s.drawnPixels x y n).Nodup ∧
    ∀ ps : List Nat, ps.Perm (s.drawnPixels x y n) → (∀ p ∈ ps, p ≤ 2047) →
      blit s.fb false ps = blit s.fb false (s.drawnPixels x y n)

/-! ## Keypad -/

/-- R96, R97: SKP and SKNP skip the next word when key Vx is, or is not, pressed, and fault when Vx is above 15. -/
def Obligations.SkipOnKey : Prop :=
  ∀ x : Reg, Encodes (wordX 0xE09E x) (.skp x) ∧ Encodes (wordX 0xE0A1 x) (.sknp x) ∧
    ∀ s : State,
      (15 < (s.getV x).toNat →
        (∃ t, exec (.skp x) s = .next t ∧ FaultedFrom .keyRange s t) ∧
        (∃ t, exec (.sknp x) s = .next t ∧ FaultedFrom .keyRange s t)) ∧
      ((s.getV x).toNat ≤ 15 →
        (∃ t, exec (.skp x) s = .next t ∧
          t.pc = (if s.keyPressed (s.getV x).toNat = true then s.pc + 4 else s.pc + 2) ∧ SameButPc s t) ∧
        (∃ t, exec (.sknp x) s = .next t ∧
          t.pc = (if s.keyPressed (s.getV x).toNat = true then s.pc + 2 else s.pc + 4) ∧ SameButPc s t))

/-- R98: LD Vx,K never waits: it loads the highest pressed key, and leaves Vx unchanged when no key is pressed. -/
def Obligations.LoadHighestPressedKey : Prop :=
  ∀ x : Reg, Encodes (wordX 0xF00A x) (.ldVxK x) ∧
    ∀ s : State, ∃ t, exec (.ldVxK x) s = .next t ∧
      ((∀ k, k < 16 → s.keyPressed k = false) → t.getV x = s.getV x) ∧
      (∀ k, k < 16 → s.keyPressed k = true → (∀ j, k < j → j < 16 → s.keyPressed j = false) →
        (t.getV x).toNat = k) ∧
      t.pc = s.pc + 2 ∧ SameButV [x] s t

/-! ## Timers -/

/-- R102: LD Vx,DT reads the delay timer before the tick of its own cycle. -/
def Obligations.ReadDelayTimer : Prop :=
  ∀ x : Reg, Encodes (wordX 0xF007 x) (.ldVxDt x) ∧
    ∀ s : State, ∃ t, exec (.ldVxDt x) s = .next t ∧ t.getV x = s.dt ∧ t.pc = s.pc + 2 ∧ SameButV [x] s t

/-- R103, R104: LD DT,Vx and LD ST,Vx write one timer each, before the tick of their own cycle. -/
def Obligations.SetTimers : Prop :=
  ∀ x : Reg, Encodes (wordX 0xF015 x) (.ldDtVx x) ∧ Encodes (wordX 0xF018 x) (.ldStVx x) ∧
    ∀ s : State,
      (∃ t, exec (.ldDtVx x) s = .next t ∧ t.dt = s.getV x ∧ t.st = s.st ∧ t.pc = s.pc + 2 ∧ SameV [] s t ∧
        SameI s t ∧ SameStack s t ∧ SameScreen s t ∧ SameMem s t ∧ SameRandom s t ∧ SameInputs s t ∧ SameStatus s t) ∧
      (∃ t, exec (.ldStVx x) s = .next t ∧ t.st = s.getV x ∧ t.dt = s.dt ∧ t.pc = s.pc + 2 ∧ SameV [] s t ∧
        SameI s t ∧ SameStack s t ∧ SameScreen s t ∧ SameMem s t ∧ SameRandom s t ∧ SameInputs s t ∧ SameStatus s t)

/-- R99, R100: a cycle that completes ends with the tick, which counts each timer down while above 0, asserts BEEP iff
ST went from 1 to 0, and changes nothing else; a cycle that faults, at the fetch or in the instruction, has no tick and no
BEEP. -/
def Obligations.TickEndsEveryCompletedCycle : Prop :=
  ∀ s : State, s.halted = false →
    (∀ reason, s.fetchInstr = .error reason →
      ∃ u, step s = .next u ∧ u.dt = s.dt ∧ u.st = s.st ∧ u.beep = false) ∧
    (∀ (i : Instr) (t : State), s.fetchInstr = .ok i → exec i s = .next t →
      (t.halted = true → ∃ u, step s = .next u ∧ u.dt = s.dt ∧ u.st = s.st ∧ u.beep = false) ∧
      (t.halted = false → ∃ u, step s = .next u ∧ u.dt.toNat = t.dt.toNat - 1 ∧ u.st.toNat = t.st.toNat - 1 ∧
        (u.beep = true ↔ t.st = 1) ∧ u = { t with dt := u.dt, st := u.st, beep := u.beep }))

/-- R101: over n cycles that complete and run no LD DT,Vx, DT counts down by n, and stays at 0 once there. -/
def Obligations.DelayTimerCountsCycles : Prop :=
  ∀ (n : Nat) (s u : State), core.run n s = .next u → u.halted = false →
    (∀ k, k < n → ∀ (m : State) (x : Reg), core.run k s = .next m → m.fetchInstr ≠ .ok (.ldDtVx x)) →
    u.dt.toNat = s.dt.toNat - n

/-- R101: over n + 1 cycles that complete and run no LD ST,Vx, ST counts down by n + 1, and BEEP is asserted in the last
of them iff ST was n + 1 at their start. -/
def Obligations.SoundTimerBeepsOnce : Prop :=
  ∀ (n : Nat) (s u : State), core.run (n + 1) s = .next u → u.halted = false →
    (∀ k, k < n + 1 → ∀ (m : State) (x : Reg), core.run k s = .next m → m.fetchInstr ≠ .ok (.ldStVx x)) →
    u.st.toNat = s.st.toNat - (n + 1) ∧ (u.beep = true ↔ s.st.toNat = n + 1)

/-! ## The cycle and its faults -/

/-- R46: when CORE runs, pc is in range and the big-endian word at pc decodes to an instruction, that instruction is
well-formed, and the step is exec of it on this state, followed by the tick unless it faulted. -/
def Obligations.StepRunsTheDecodedInstruction : Prop :=
  ∀ (s : State) (i : Instr) (w : Word), s.halted = false → 0x200 ≤ s.pc.toNat → s.pc.toNat ≤ 0xFFE →
    w.toNat = (s.readMem s.pc.toNat).toNat * 256 + (s.readMem (s.pc.toNat + 1)).toNat → decode w = .known i →
    i.wellFormed = true ∧
    (∀ t, exec i s = .next t → step s = .next (if t.halted = true then t else t.tick)) ∧
    (∃ t, exec i s = .next t)

/-- R18, R55, R108: a running CORE with pc out of range faults FETCH_RANGE, and one whose word at pc is illegal faults
UNKNOWN_OPCODE; the record holds pc, and the word for the second alone. -/
def Obligations.FetchAndDecodeFaults : Prop :=
  ∀ s : State, s.halted = false →
    (s.pc.toNat < 0x200 ∨ 0xFFE < s.pc.toNat →
      ∃ t, step s = .next t ∧ FaultedFrom .fetchRange s t ∧ t.fault = some ⟨.fetchRange, s.pc, none⟩) ∧
    (0x200 ≤ s.pc.toNat → s.pc.toNat ≤ 0xFFE → ∀ w : Word,
      w.toNat = (s.readMem s.pc.toNat).toNat * 256 + (s.readMem (s.pc.toNat + 1)).toNat → illegalWord w = true →
      ∃ t, step s = .next t ∧ FaultedFrom .unknownOpcode s t ∧ t.fault = some ⟨.unknownOpcode, s.pc, some w⟩)

/-- R105, R108: an instruction raises the faults the table gives it, under exactly the tabled conditions, and otherwise
completes with the run status untouched; no instruction raises two. -/
def Obligations.InstructionFaultsAsTabled : Prop :=
  ∀ (i : Instr) (s : State),
    (∀ reason, Raises i s reason → ∃ t, exec i s = .next t ∧ FaultedFrom reason s t) ∧
    ((∀ reason, ¬ Raises i s reason) → ∃ t, exec i s = .next t ∧ SameStatus s t) ∧
    (∀ r q, Raises i s r → Raises i s q → r = q)

/-- R106: a cycle in which CORE halts leaves the whole state as the cycle found it but for HALTED, the record (the
reason, the pc it fetched from, the fetched word but for FETCH_RANGE) and BEEP, which is not asserted. -/
def Obligations.FaultEntryFreezesTheState : Prop :=
  ∀ s t : State, step s = .next t → s.halted = false → t.halted = true → ∃ reason, FaultedFrom reason s t

/-- R107: a halted CORE answers any number of cycles unchanged, asserts no BEEP, and no event of the host but RESET ends
the halt. -/
def Obligations.HaltedCoreStaysHalted : Prop :=
  (∀ s : State, s.halted = true → ∃ t, step s = .next t ∧ t = { s with beep := false }) ∧
  (∀ (n : Nat) (s : State), s.halted = true → s.beep = false → core.run n s = .next s) ∧
  (∀ (e : HostEvent) (s t : State), s.halted = true → (∀ p rom seed, e ≠ .reset p rom seed) →
    hostStep e s = .next t → t.halted = true ∧ t.fault = s.fault)

/-- The model (assumption 1): no run stops without a state, for a halted CORE keeps one (R107) and every instruction
answers. -/
def Obligations.EveryRunAnswersAState : Prop :=
  ∀ (n : Nat) (s : State), ∃ t, core.run n s = .next t

/-! ## Whole-machine rules -/

/-- R16, R19, R21 to R25: which instructions may write I, the stack, each timer, the screen, memory and the generator;
none writes the key latch. -/
def Obligations.OnlyNamedInstructionsWriteEachUnit : Prop :=
  ∀ (i : Instr) (s t : State), exec i s = .next t →
    ((∀ a, i ≠ .ldI a) → (∀ x, i ≠ .addI x) → (∀ x, i ≠ .ldF x) → SameI s t) ∧
    (i ≠ .ret → (∀ a, i ≠ .call a) → SameStack s t) ∧
    ((∀ x, i ≠ .ldDtVx x) → t.dt = s.dt) ∧ ((∀ x, i ≠ .ldStVx x) → t.st = s.st) ∧
    (i ≠ .cls → (∀ x y n, i ≠ .drw x y n) → SameScreen s t) ∧
    ((∀ x, i ≠ .ldB x) → (∀ x, i ≠ .ldStore x) → SameMem s t) ∧
    ((∀ x kk, i ≠ .rnd x kk) → SameRandom s t) ∧ SameInputs s t

/-- R13, R15: an instruction changes no V register but those the table says it writes. -/
def Obligations.RegistersWrittenAsTabled : Prop :=
  ∀ (i : Instr) (s t : State) (r : Reg), exec i s = .next t → r ∉ writtenV i → t.getV r = s.getV r

/-- R13: a V register the table does not say an instruction reads has no effect on what the instruction does to the rest
of the state. -/
def Obligations.UnreadRegistersDoNotMatter : Prop :=
  ∀ (i : Instr) (s t : State) (r : Reg) (b : Byte), r ∉ readV i → exec i s = .next t →
    ∃ c, exec i (s.setV r b) = .next (t.setV r c)

/-- R20: a stack entry at or above SP has no effect on what an instruction does to anything but the entries that are
again at or above SP. -/
def Obligations.StaleStackEntriesAreInvisible : Prop :=
  ∀ (i : Instr) (s t : State) (k : Nat) (a : Word), s.sp.val ≤ k → k < 15 → exec i s = .next t →
    ∃ u, exec i { s with stack := s.stack.setIfInBounds k a } = .next u ∧ u = { t with stack := u.stack } ∧
      ∀ j, j < t.sp.val → u.stackAt j = t.stackAt j

/-- R62 with R60: a CALL and then a RET, with the stack as the CALL left it, gives back the address after the CALL and the
stack pointer. -/
def Obligations.CallThenRetReturns : Prop :=
  ∀ (addr : Word) (s : State), s.sp.val < 15 →
    ∃ t, exec (.call addr) s = .next t ∧
      ∀ s' : State, SameStack t s' →
        ∃ u, exec .ret s' = .next u ∧ u.pc = s.pc + 2 ∧ u.sp = s.sp

/-! ## Encoding -/

/-- R52, R54: decoding the word of a well-formed instruction gives the instruction back. -/
def Obligations.DecodeOfEncodeIsTheInstruction : Prop :=
  ∀ i : Instr, i.wellFormed = true → decode (encode i) = .known i

/-- R54: decode answers the instruction of a row of the opcode map that matches the word, well-formed and encoded by
that very word, and UNKNOWN only when no row matches. -/
def Obligations.DecodeFollowsTheOpcodeMap : Prop :=
  ∀ w : Word,
    (∀ i, decode w = .known i →
      i.row ∈ opcodeMap ∧ i.row.matchesWord w = true ∧ i.wellFormed = true ∧ encode i = w) ∧
    (decode w = .unknown ↔ ∀ r ∈ opcodeMap, r.matchesWord w = false)

/-- R52: the map has 34 rows, and no two of them match the same word. -/
def Obligations.OpcodeMapRowsAreDisjoint : Prop :=
  opcodeMap.length = 34 ∧
    opcodeMap.Pairwise (fun r q => ∀ w, ¬ (r.matchesWord w = true ∧ q.matchesWord w = true))

/-- R55: the words decode answers UNKNOWN for are exactly those the table of illegal words lists. -/
def Obligations.IllegalWordsAsListed : Prop :=
  ∀ w : Word, decode w = .unknown ↔ illegalWord w = true

/-- R53: the five words the source shows decode to the instructions it gives them, and so do one word of each other
family. -/
def Obligations.SourceWordsDecode : Prop :=
  decodeTableWord 16 0x00E0 = some .cls ∧ decodeTableWord 16 0x6A05 = some (.ldByte 10 5) ∧
  decodeTableWord 16 0xA300 = some (.ldI 0x300) ∧ decodeTableWord 16 0xF055 = some (.ldStore 0) ∧
  decodeTableWord 16 0xD005 = some (.drw 0 0 5) ∧ decodeTableWord 16 0x2ABC = some (.call 0xABC) ∧
  decodeTableWord 16 0x8014 = some (.addReg 0 1) ∧ decodeTableWord 16 0xC00F = some (.rnd 0 0x0F) ∧
  decodeTableWord 16 0xE5A1 = some (.sknp 5) ∧ decodeTableWord 16 0xF307 = some (.ldVxDt 3)

/-! ## Reset and the host -/

/-- R29, R119: RESET with a ROM of 1 to 3584 bytes builds, from any state before it, the state with every piece at its
tabled value: the font, the ROM verbatim at 0x200, the seed in RNG, pc at 0x200 and all else zero; with any other ROM it
builds none. -/
def Obligations.ResetBuildsTheTabledState : Prop :=
  ∀ (p : Params) (rom : List Byte) (seed : Word32) (s : State),
    (rom.length = 0 ∨ 3584 < rom.length → hostStep (.reset p rom seed) s = .refused .bootFailedRomSize) ∧
    (0 < rom.length → rom.length ≤ 3584 → ∃ t, hostStep (.reset p rom seed) s = .next t ∧ (∀ r, t.getV r = 0) ∧
      t.iReg = 0 ∧ t.pc = 0x200 ∧ t.sp.val = 0 ∧ (∀ k, t.stackAt k = 0) ∧ t.dt = 0 ∧ t.st = 0 ∧ (∀ k, t.keyPressed k = false) ∧
      (∀ q, t.pixel q = false) ∧ t.draw = false ∧
      (∀ (a : Nat) (h : a < 80), t.readMem a = p.font[a]) ∧ (∀ a, 80 ≤ a → a < 0x200 → t.readMem a = 0) ∧
      (∀ (k : Nat) (h : k < rom.length), t.readMem (0x200 + k) = rom[k]) ∧
      (∀ a, 0x200 + rom.length ≤ a → a < 0x1000 → t.readMem a = 0) ∧
      t.rng = seed ∧ t.rngMode = p.rngMode ∧ t.halted = false ∧ t.fault = none ∧ t.beep = false)

/-- R120: RESET with a ROM of no byte or more than 3584 builds no state, whatever stood before; then no event but a RESET
with a legal ROM builds one. -/
def Obligations.ResetRefusesBadRomSizes : Prop :=
  (∀ (p : Params) (rom : List Byte) (seed : Word32) (s : State), rom.length = 0 ∨ 3584 < rom.length →
    hostEvent (.reset p rom seed) (.next s) = .refused .bootFailedRomSize) ∧
  (∀ es : List HostEvent,
    (∀ (p : Params) (rom : List Byte) (seed : Word32), HostEvent.reset p rom seed ∈ es →
      rom.length = 0 ∨ 3584 < rom.length) →
    hostRun es (.refused .bootFailedRomSize) = .refused .bootFailedRomSize) ∧
  (∀ (p : Params) (rom : List Byte) (seed : Word32), 0 < rom.length → rom.length ≤ 3584 →
    ∃ t, hostEvent (.reset p rom seed) (.refused .bootFailedRomSize) = .next t)

/-- R29: the state after reset before any ROM byte is loaded (the model's choice, assumption 8), with RNG at the parameter
`RNG_SEED`. The mode STREAM is
the spec's default (R7). -/
def Obligations.ResetStateHoldsTabledValues : Prop :=
  (∀ r, State.reset.getV r = 0) ∧ State.reset.iReg = 0 ∧ State.reset.pc = 0x200 ∧ State.reset.sp = 0 ∧
  (∀ k, State.reset.stackAt k = 0) ∧ State.reset.dt = 0 ∧ State.reset.st = 0 ∧
  (∀ k, State.reset.keyPressed k = false) ∧ (∀ p, State.reset.pixel p = false) ∧ State.reset.draw = false ∧
  (∀ a, 80 ≤ a → State.reset.readMem a = 0) ∧ State.reset.rng = Config.rngSeed ∧ State.reset.rngMode = .stream ∧
  State.reset.halted = false ∧ State.reset.fault = none ∧ State.reset.beep = false

/-- The state after reset meets the invariant. The model's choices: that this state has no ROM byte loaded (assumption 8),
and the canonical form of memory, the invariant's first part (assumption 9). The bound of pc (R18), the run status (R27)
and the record (R27) are the spec's. -/
def Obligations.ResetStateMeetsInvariant : Prop := State.reset.Inv

/-- Every step keeps memory in its canonical form. The form is the model's choice (assumption 9). -/
def Obligations.StepKeepsMemoryCanonical : Prop :=
  ∀ s t : State, s.MemOk → step s = .next t → t.MemOk

/-- R18: pc never wraps: every step keeps it at or below 0x10FE, and every return address at or below 0x1000. -/
def Obligations.StepKeepsPcBounded : Prop :=
  ∀ s t : State, s.PcBounded → step s = .next t → t.PcBounded

/-- R27, R106, R107: every step keeps FAULT empty exactly while not halted, no BEEP while halted, and a record that tells
of the frozen state. -/
def Obligations.StepKeepsFaultRecord : Prop :=
  ∀ s t : State, s.RunStatusOk → s.RecordOk → step s = .next t → t.RunStatusOk ∧ t.RecordOk

/-- R5, R115, R119: whatever the host does between cycles, in whatever order and with whatever ROMs, the invariant is kept,
from a state that meets it or from no state. Its first part, the canonical form of memory, is the model's choice
(assumption 9), and so is that a CORE with no state built answers events without one (assumption 19); the bound of pc is
R18's, the run status and the record are R27's, R106's and R107's. -/
def Obligations.HostRunKeepsInvariant : Prop :=
  ∀ (es : List HostEvent) (o : Host.Outcome State Fault Refusal) (t : State), (∀ s, o = .next s → s.Inv) →
    hostRun es o = .next t → t.Inv

/-- R5, R22, R24: the host writes one key of the latch, or clears the draw flag, and nothing else. -/
def Obligations.HostWritesKeysAndClearsDraw : Prop :=
  (∀ (s : State) (k : Fin 16) (b : Bool), ∃ t, hostStep (.key k b) s = .next t ∧ t.keyPressed k.val = b ∧
    (∀ j, j ≠ k.val → t.keyPressed j = s.keyPressed j) ∧ t = { s with keys := t.keys }) ∧
  (∀ s : State, ∃ t, hostStep .drawClear s = .next t ∧ t = { s with draw := false })
end

