-- ==== Sys2Proof/Laws/Decode.lean ====
section
/-! SUPPORT. The fields of a packed word, the bytes of a word, and what a mask keeps of a word. -/

namespace Sys2Proof

/-! ## Fields of packed words -/

theorem field_lt (w : Word) (lo len : Nat) : field w lo len < 2 ^ len := Nat.mod_lt _ (Nat.two_pow_pos len)

theorem packXyn_toNat (op : Nat) (x y : Reg) (n : Nat) (ho : op < 16) (hn : n < 16) :
    (packXyn op x y n).toNat = op * 4096 + x.val * 256 + y.val * 16 + n := by
  rw [packXyn, BitVec.toNat_ofNat, Nat.mod_eq_of_lt (by omega)]

theorem packXkk_toNat (op : Nat) (x : Reg) (kk : Byte) (ho : op < 16) :
    (packXkk op x kk).toNat = op * 4096 + x.val * 256 + kk.toNat := by
  rw [packXkk, BitVec.toNat_ofNat, Nat.mod_eq_of_lt (by omega)]

theorem packNnn_toNat (op : Nat) (addr : Word) (ho : op < 16) (ha : addr.toNat < 4096) :
    (packNnn op addr).toNat = op * 4096 + addr.toNat := by
  rw [packNnn, BitVec.toNat_ofNat, Nat.mod_eq_of_lt (by omega)]

theorem fieldX_eq (w : Word) (x : Reg) (h : w.toNat / 256 % 16 = x.val) : fieldX w = x := by
  apply Fin.ext
  show field w 8 4 % 16 = x.val
  simp [field, h]

theorem fieldY_eq (w : Word) (y : Reg) (h : w.toNat / 16 % 16 = y.val) : fieldY w = y := by
  apply Fin.ext
  show field w 4 4 % 16 = y.val
  simp [field, h]

theorem fieldKk_eq (w : Word) (kk : Byte) (h : w.toNat % 256 = kk.toNat) : fieldKk w = kk := by
  apply BitVec.eq_of_toNat_eq
  simp [fieldKk, field, h]

theorem fieldNnn_eq (w addr : Word) (h : w.toNat % 4096 = addr.toNat) : fieldNnn w = addr := by
  apply BitVec.eq_of_toNat_eq
  simp [fieldNnn, field, h]

/-- The fields of a word of the format `op x y n` are the operands it was packed from. -/
theorem fields_packXyn (op : Nat) (x y : Reg) (n : Nat) (ho : op < 16) (hn : n < 16) :
    fieldOp (packXyn op x y n) = op ∧ fieldX (packXyn op x y n) = x ∧ fieldY (packXyn op x y n) = y ∧
      fieldN (packXyn op x y n) = n := by
  have h := packXyn_toNat op x y n ho hn
  refine ⟨?_, fieldX_eq _ _ (by omega), fieldY_eq _ _ (by omega), ?_⟩
  · simp only [fieldOp, field]; omega
  · simp only [fieldN, field]; omega

/-- The fields of a word of the format `op x kk` are the operands it was packed from. -/
theorem fields_packXkk (op : Nat) (x : Reg) (kk : Byte) (ho : op < 16) :
    fieldOp (packXkk op x kk) = op ∧ fieldX (packXkk op x kk) = x ∧ fieldKk (packXkk op x kk) = kk := by
  have h := packXkk_toNat op x kk ho
  refine ⟨?_, fieldX_eq _ _ (by omega), fieldKk_eq _ _ (by omega)⟩
  simp only [fieldOp, field]; omega

/-- The fields of a word of the format `op nnn` are the operands it was packed from. -/
theorem fields_packNnn (op : Nat) (addr : Word) (ho : op < 16) (ha : addr.toNat < 4096) :
    fieldOp (packNnn op addr) = op ∧ fieldNnn (packNnn op addr) = addr := by
  have h := packNnn_toNat op addr ho ha
  refine ⟨?_, fieldNnn_eq _ _ (by omega)⟩
  simp only [fieldOp, field]; omega

/-! ## The bytes of a word -/

/-- A word is the word of its two bytes (R38). -/
theorem wordOfBytes_bytes (w : Word) : wordOfBytes (hiByte w) (loByte w) = w := by
  apply BitVec.eq_of_toNat_eq
  simp only [wordOfBytes, hiByte, loByte, BitVec.toNat_ofNat]
  omega

/-- The high byte is the one at the lower address (R38). -/
theorem wordOfBytes_toNat (hi lo : Byte) : (wordOfBytes hi lo).toNat = hi.toNat * 256 + lo.toNat := by
  simp only [wordOfBytes, BitVec.toNat_ofNat]
  omega

/-! ## Masks -/

theorem and_opMask (w : Word) : w &&& 0xF000 = BitVec.ofNat 16 (field w 12 4 * 2 ^ 12) := by
  apply BitVec.eq_of_getLsbD_eq
  intro i hi
  rw [BitVec.getLsbD_and, BitVec.getLsbD_ofNat]
  simp only [field, Nat.testBit_mul_two_pow, Nat.testBit_mod_two_pow, Nat.testBit_div_two_pow]
  interval_cases i <;> simp [BitVec.getLsbD] <;> intro _ <;> decide

theorem and_lowMask (w : Word) (len : Nat) (h : len ≤ 16) :
    w &&& BitVec.ofNat 16 (2 ^ len - 1) = BitVec.ofNat 16 (field w 0 len) := by
  apply BitVec.eq_of_toNat_eq
  have hp : 2 ^ len ≤ 2 ^ 16 := Nat.pow_le_pow_right (by omega) h
  have := Nat.two_pow_pos len
  simp only [BitVec.toNat_and, BitVec.toNat_ofNat, field, Nat.pow_zero, Nat.div_one]
  rw [Nat.mod_eq_of_lt (show 2 ^ len - 1 < 2 ^ 16 by omega), Nat.and_two_pow_sub_one_eq_mod]
  exact (Nat.mod_eq_of_lt (Nat.lt_of_lt_of_le (Nat.mod_lt _ this) hp)).symm

theorem and_nMask (w : Word) : w &&& 0x000F = BitVec.ofNat 16 (fieldN w) := and_lowMask w 4 (by omega)

theorem and_kkMask (w : Word) : w &&& 0x00FF = (fieldKk w).setWidth 16 := by
  refine (and_lowMask w 8 (by omega)).trans (BitVec.eq_of_toNat_eq ?_)
  have := field_lt w 0 8
  simp only [fieldKk, BitVec.toNat_ofNat, BitVec.toNat_setWidth]
  omega

/-- The mask of `op` alone keeps the family. -/
theorem matchesWord_op (w : Word) (k : Nat) (hk : k < 16) :
    OpRow.matchesWord (BitVec.ofNat 16 (k * 2 ^ 12), 0xF000) w = true ↔ fieldOp w = k := by
  have h := field_lt w 12 4
  simp only [OpRow.matchesWord, beq_iff_eq, and_opMask, fieldOp]
  constructor
  · intro e
    have e := congrArg BitVec.toNat e
    simp only [BitVec.toNat_ofNat] at e
    omega
  · rintro rfl; rfl

/-- A comparison under two disjoint masks is the two comparisons. -/
theorem and_or_eq_iff (w m₁ m₂ p q : Word) (h₁ : p &&& m₁ = p) (h₂ : q &&& m₂ = q) (h₃ : p &&& m₂ = 0)
    (h₄ : q &&& m₁ = 0) (h₅ : m₂ &&& m₁ = 0) : w &&& (m₁ ||| m₂) = p ||| q ↔ w &&& m₁ = p ∧ w &&& m₂ = q := by
  have e₁ : (m₁ ||| m₂) &&& m₁ = m₁ := by
    rw [BitVec.and_comm, BitVec.and_or_distrib_left, BitVec.and_self, BitVec.and_comm m₁, h₅]; simp
  have e₂ : (m₁ ||| m₂) &&& m₂ = m₂ := by
    rw [BitVec.and_comm, BitVec.and_or_distrib_left, BitVec.and_self, h₅]; simp
  constructor
  · intro e
    constructor
    · rw [← e₁, ← BitVec.and_assoc, e, BitVec.and_comm, BitVec.and_or_distrib_left, BitVec.and_comm m₁ p, h₁,
        BitVec.and_comm m₁ q, h₄]; simp
    · rw [← e₂, ← BitVec.and_assoc, e, BitVec.and_comm, BitVec.and_or_distrib_left, BitVec.and_comm m₂ p, h₃,
        BitVec.and_comm m₂ q, h₂]; simp
  · rintro ⟨rfl, rfl⟩
    exact BitVec.and_or_distrib_left

/-- The mask of `op` and `n` keeps the family and the sub-opcode. -/
theorem matchesWord_opN (w : Word) (k n : Nat) (hk : k < 16) (hn : n < 16) :
    OpRow.matchesWord (BitVec.ofNat 16 (k * 2 ^ 12) ||| BitVec.ofNat 16 n, 0xF00F) w = true ↔
      fieldOp w = k ∧ fieldN w = n := by
  rw [← matchesWord_op w k hk]
  simp only [OpRow.matchesWord, beq_iff_eq]
  rw [show (0xF00F : Word) = 0xF000 ||| 0x000F by rfl, and_or_eq_iff _ _ _ _ _ ?_ ?_ ?_ ?_ (by decide)]
  · refine and_congr Iff.rfl ?_
    rw [and_nMask]
    have h := field_lt w 0 4
    constructor
    · intro e
      have e := congrArg BitVec.toNat e
      simp only [BitVec.toNat_ofNat, fieldN] at e ⊢
      omega
    · rintro rfl; rfl
  · interval_cases k <;> rfl
  · interval_cases n <;> rfl
  · interval_cases k <;> rfl
  · interval_cases n <;> rfl

/-- The mask of `op` and `kk` keeps the family and the immediate. -/
theorem matchesWord_opKk (w : Word) (k : Nat) (kk : Byte) (hk : k < 16) :
    OpRow.matchesWord (BitVec.ofNat 16 (k * 2 ^ 12) ||| kk.setWidth 16, 0xF0FF) w = true ↔
      fieldOp w = k ∧ fieldKk w = kk := by
  have hkk : fieldKk (kk.setWidth 16) = kk := by
    apply fieldKk_eq
    simp only [BitVec.toNat_setWidth]
    omega
  rw [← matchesWord_op w k hk]
  simp only [OpRow.matchesWord, beq_iff_eq]
  rw [show (0xF0FF : Word) = 0xF000 ||| 0x00FF by rfl, and_or_eq_iff _ _ _ _ _ ?_ ?_ ?_ ?_ (by decide)]
  · refine and_congr Iff.rfl ?_
    rw [and_kkMask]
    constructor
    · intro e
      have e := congrArg BitVec.toNat e
      apply BitVec.eq_of_toNat_eq
      simp only [BitVec.toNat_setWidth] at e
      omega
    · rintro rfl; rfl
  · interval_cases k <;> rfl
  · rw [and_kkMask, hkk]
  · interval_cases k <;> rfl
  · rw [and_opMask]
    have : field (kk.setWidth 16) 12 4 = 0 := by
      simp only [field, BitVec.toNat_setWidth]
      omega
    rw [this]; rfl

end Sys2Proof
end

