-- ==== Sys2Proof/Laws/State.lean ====
section
/-! SUPPORT. What each field and each view of a state is after each update: one lemma per field per update, so that no
proof unfolds a record update. -/

namespace Sys2Proof.Machine

variable (s : State)

/-! ## `State.setV` -/

@[simp] theorem setV_v (r : Reg) (b : Byte) : (s.setV r b).v = s.v.set r.val b := rfl
@[simp] theorem setV_iReg (r : Reg) (b : Byte) : (s.setV r b).iReg = s.iReg := rfl
@[simp] theorem setV_pc (r : Reg) (b : Byte) : (s.setV r b).pc = s.pc := rfl
@[simp] theorem setV_sp (r : Reg) (b : Byte) : (s.setV r b).sp = s.sp := rfl
@[simp] theorem setV_stack (r : Reg) (b : Byte) : (s.setV r b).stack = s.stack := rfl
@[simp] theorem setV_dt (r : Reg) (b : Byte) : (s.setV r b).dt = s.dt := rfl
@[simp] theorem setV_st (r : Reg) (b : Byte) : (s.setV r b).st = s.st := rfl
@[simp] theorem setV_keys (r : Reg) (b : Byte) : (s.setV r b).keys = s.keys := rfl
@[simp] theorem setV_fb (r : Reg) (b : Byte) : (s.setV r b).fb = s.fb := rfl
@[simp] theorem setV_draw (r : Reg) (b : Byte) : (s.setV r b).draw = s.draw := rfl
@[simp] theorem setV_mem (r : Reg) (b : Byte) : (s.setV r b).mem = s.mem := rfl
@[simp] theorem setV_rng (r : Reg) (b : Byte) : (s.setV r b).rng = s.rng := rfl
@[simp] theorem setV_rngMode (r : Reg) (b : Byte) : (s.setV r b).rngMode = s.rngMode := rfl
@[simp] theorem setV_drawCount (r : Reg) (b : Byte) : (s.setV r b).drawCount = s.drawCount := rfl
@[simp] theorem setV_halted (r : Reg) (b : Byte) : (s.setV r b).halted = s.halted := rfl
@[simp] theorem setV_fault (r : Reg) (b : Byte) : (s.setV r b).fault = s.fault := rfl
@[simp] theorem setV_beep (r : Reg) (b : Byte) : (s.setV r b).beep = s.beep := rfl
@[simp] theorem stackAt_setV (r : Reg) (b : Byte) (k : Nat) : (s.setV r b).stackAt k = s.stackAt k := rfl
@[simp] theorem pixel_setV (r : Reg) (b : Byte) (p : Nat) : (s.setV r b).pixel p = s.pixel p := rfl
@[simp] theorem readMem_setV (r : Reg) (b : Byte) (a' : Nat) : (s.setV r b).readMem a' = s.readMem a' := rfl
@[simp] theorem keyPressed_setV (r : Reg) (b : Byte) (k : Nat) : (s.setV r b).keyPressed k = s.keyPressed k := rfl

/-! ## `State.setI` -/

@[simp] theorem setI_v (a : Word) : (s.setI a).v = s.v := rfl
@[simp] theorem setI_iReg (a : Word) : (s.setI a).iReg = a := rfl
@[simp] theorem setI_pc (a : Word) : (s.setI a).pc = s.pc := rfl
@[simp] theorem setI_sp (a : Word) : (s.setI a).sp = s.sp := rfl
@[simp] theorem setI_stack (a : Word) : (s.setI a).stack = s.stack := rfl
@[simp] theorem setI_dt (a : Word) : (s.setI a).dt = s.dt := rfl
@[simp] theorem setI_st (a : Word) : (s.setI a).st = s.st := rfl
@[simp] theorem setI_keys (a : Word) : (s.setI a).keys = s.keys := rfl
@[simp] theorem setI_fb (a : Word) : (s.setI a).fb = s.fb := rfl
@[simp] theorem setI_draw (a : Word) : (s.setI a).draw = s.draw := rfl
@[simp] theorem setI_mem (a : Word) : (s.setI a).mem = s.mem := rfl
@[simp] theorem setI_rng (a : Word) : (s.setI a).rng = s.rng := rfl
@[simp] theorem setI_rngMode (a : Word) : (s.setI a).rngMode = s.rngMode := rfl
@[simp] theorem setI_drawCount (a : Word) : (s.setI a).drawCount = s.drawCount := rfl
@[simp] theorem setI_halted (a : Word) : (s.setI a).halted = s.halted := rfl
@[simp] theorem setI_fault (a : Word) : (s.setI a).fault = s.fault := rfl
@[simp] theorem setI_beep (a : Word) : (s.setI a).beep = s.beep := rfl
@[simp] theorem getV_setI (a : Word) (q : Reg) : (s.setI a).getV q = s.getV q := rfl
@[simp] theorem stackAt_setI (a : Word) (k : Nat) : (s.setI a).stackAt k = s.stackAt k := rfl
@[simp] theorem pixel_setI (a : Word) (p : Nat) : (s.setI a).pixel p = s.pixel p := rfl
@[simp] theorem readMem_setI (a : Word) (a' : Nat) : (s.setI a).readMem a' = s.readMem a' := rfl
@[simp] theorem keyPressed_setI (a : Word) (k : Nat) : (s.setI a).keyPressed k = s.keyPressed k := rfl

/-! ## `State.setPc` -/

@[simp] theorem setPc_v (a : Word) : (s.setPc a).v = s.v := rfl
@[simp] theorem setPc_iReg (a : Word) : (s.setPc a).iReg = s.iReg := rfl
@[simp] theorem setPc_pc (a : Word) : (s.setPc a).pc = a := rfl
@[simp] theorem setPc_sp (a : Word) : (s.setPc a).sp = s.sp := rfl
@[simp] theorem setPc_stack (a : Word) : (s.setPc a).stack = s.stack := rfl
@[simp] theorem setPc_dt (a : Word) : (s.setPc a).dt = s.dt := rfl
@[simp] theorem setPc_st (a : Word) : (s.setPc a).st = s.st := rfl
@[simp] theorem setPc_keys (a : Word) : (s.setPc a).keys = s.keys := rfl
@[simp] theorem setPc_fb (a : Word) : (s.setPc a).fb = s.fb := rfl
@[simp] theorem setPc_draw (a : Word) : (s.setPc a).draw = s.draw := rfl
@[simp] theorem setPc_mem (a : Word) : (s.setPc a).mem = s.mem := rfl
@[simp] theorem setPc_rng (a : Word) : (s.setPc a).rng = s.rng := rfl
@[simp] theorem setPc_rngMode (a : Word) : (s.setPc a).rngMode = s.rngMode := rfl
@[simp] theorem setPc_drawCount (a : Word) : (s.setPc a).drawCount = s.drawCount := rfl
@[simp] theorem setPc_halted (a : Word) : (s.setPc a).halted = s.halted := rfl
@[simp] theorem setPc_fault (a : Word) : (s.setPc a).fault = s.fault := rfl
@[simp] theorem setPc_beep (a : Word) : (s.setPc a).beep = s.beep := rfl
@[simp] theorem getV_setPc (a : Word) (q : Reg) : (s.setPc a).getV q = s.getV q := rfl
@[simp] theorem stackAt_setPc (a : Word) (k : Nat) : (s.setPc a).stackAt k = s.stackAt k := rfl
@[simp] theorem pixel_setPc (a : Word) (p : Nat) : (s.setPc a).pixel p = s.pixel p := rfl
@[simp] theorem readMem_setPc (a : Word) (a' : Nat) : (s.setPc a).readMem a' = s.readMem a' := rfl
@[simp] theorem keyPressed_setPc (a : Word) (k : Nat) : (s.setPc a).keyPressed k = s.keyPressed k := rfl

/-! ## `State.advance` -/

@[simp] theorem advance_v : (s.advance).v = s.v := rfl
@[simp] theorem advance_iReg : (s.advance).iReg = s.iReg := rfl
@[simp] theorem advance_pc : (s.advance).pc = s.pc + 2 := rfl
@[simp] theorem advance_sp : (s.advance).sp = s.sp := rfl
@[simp] theorem advance_stack : (s.advance).stack = s.stack := rfl
@[simp] theorem advance_dt : (s.advance).dt = s.dt := rfl
@[simp] theorem advance_st : (s.advance).st = s.st := rfl
@[simp] theorem advance_keys : (s.advance).keys = s.keys := rfl
@[simp] theorem advance_fb : (s.advance).fb = s.fb := rfl
@[simp] theorem advance_draw : (s.advance).draw = s.draw := rfl
@[simp] theorem advance_mem : (s.advance).mem = s.mem := rfl
@[simp] theorem advance_rng : (s.advance).rng = s.rng := rfl
@[simp] theorem advance_rngMode : (s.advance).rngMode = s.rngMode := rfl
@[simp] theorem advance_drawCount : (s.advance).drawCount = s.drawCount := rfl
@[simp] theorem advance_halted : (s.advance).halted = s.halted := rfl
@[simp] theorem advance_fault : (s.advance).fault = s.fault := rfl
@[simp] theorem advance_beep : (s.advance).beep = s.beep := rfl
@[simp] theorem getV_advance (q : Reg) : (s.advance).getV q = s.getV q := rfl
@[simp] theorem stackAt_advance (k : Nat) : (s.advance).stackAt k = s.stackAt k := rfl
@[simp] theorem pixel_advance (p : Nat) : (s.advance).pixel p = s.pixel p := rfl
@[simp] theorem readMem_advance (a' : Nat) : (s.advance).readMem a' = s.readMem a' := rfl
@[simp] theorem keyPressed_advance (k : Nat) : (s.advance).keyPressed k = s.keyPressed k := rfl

/-! ## `State.setDt` -/

@[simp] theorem setDt_v (b : Byte) : (s.setDt b).v = s.v := rfl
@[simp] theorem setDt_iReg (b : Byte) : (s.setDt b).iReg = s.iReg := rfl
@[simp] theorem setDt_pc (b : Byte) : (s.setDt b).pc = s.pc := rfl
@[simp] theorem setDt_sp (b : Byte) : (s.setDt b).sp = s.sp := rfl
@[simp] theorem setDt_stack (b : Byte) : (s.setDt b).stack = s.stack := rfl
@[simp] theorem setDt_dt (b : Byte) : (s.setDt b).dt = b := rfl
@[simp] theorem setDt_st (b : Byte) : (s.setDt b).st = s.st := rfl
@[simp] theorem setDt_keys (b : Byte) : (s.setDt b).keys = s.keys := rfl
@[simp] theorem setDt_fb (b : Byte) : (s.setDt b).fb = s.fb := rfl
@[simp] theorem setDt_draw (b : Byte) : (s.setDt b).draw = s.draw := rfl
@[simp] theorem setDt_mem (b : Byte) : (s.setDt b).mem = s.mem := rfl
@[simp] theorem setDt_rng (b : Byte) : (s.setDt b).rng = s.rng := rfl
@[simp] theorem setDt_rngMode (b : Byte) : (s.setDt b).rngMode = s.rngMode := rfl
@[simp] theorem setDt_drawCount (b : Byte) : (s.setDt b).drawCount = s.drawCount := rfl
@[simp] theorem setDt_halted (b : Byte) : (s.setDt b).halted = s.halted := rfl
@[simp] theorem setDt_fault (b : Byte) : (s.setDt b).fault = s.fault := rfl
@[simp] theorem setDt_beep (b : Byte) : (s.setDt b).beep = s.beep := rfl
@[simp] theorem getV_setDt (b : Byte) (q : Reg) : (s.setDt b).getV q = s.getV q := rfl
@[simp] theorem stackAt_setDt (b : Byte) (k : Nat) : (s.setDt b).stackAt k = s.stackAt k := rfl
@[simp] theorem pixel_setDt (b : Byte) (p : Nat) : (s.setDt b).pixel p = s.pixel p := rfl
@[simp] theorem readMem_setDt (b : Byte) (a' : Nat) : (s.setDt b).readMem a' = s.readMem a' := rfl
@[simp] theorem keyPressed_setDt (b : Byte) (k : Nat) : (s.setDt b).keyPressed k = s.keyPressed k := rfl

/-! ## `State.setSt` -/

@[simp] theorem setSt_v (b : Byte) : (s.setSt b).v = s.v := rfl
@[simp] theorem setSt_iReg (b : Byte) : (s.setSt b).iReg = s.iReg := rfl
@[simp] theorem setSt_pc (b : Byte) : (s.setSt b).pc = s.pc := rfl
@[simp] theorem setSt_sp (b : Byte) : (s.setSt b).sp = s.sp := rfl
@[simp] theorem setSt_stack (b : Byte) : (s.setSt b).stack = s.stack := rfl
@[simp] theorem setSt_dt (b : Byte) : (s.setSt b).dt = s.dt := rfl
@[simp] theorem setSt_st (b : Byte) : (s.setSt b).st = b := rfl
@[simp] theorem setSt_keys (b : Byte) : (s.setSt b).keys = s.keys := rfl
@[simp] theorem setSt_fb (b : Byte) : (s.setSt b).fb = s.fb := rfl
@[simp] theorem setSt_draw (b : Byte) : (s.setSt b).draw = s.draw := rfl
@[simp] theorem setSt_mem (b : Byte) : (s.setSt b).mem = s.mem := rfl
@[simp] theorem setSt_rng (b : Byte) : (s.setSt b).rng = s.rng := rfl
@[simp] theorem setSt_rngMode (b : Byte) : (s.setSt b).rngMode = s.rngMode := rfl
@[simp] theorem setSt_drawCount (b : Byte) : (s.setSt b).drawCount = s.drawCount := rfl
@[simp] theorem setSt_halted (b : Byte) : (s.setSt b).halted = s.halted := rfl
@[simp] theorem setSt_fault (b : Byte) : (s.setSt b).fault = s.fault := rfl
@[simp] theorem setSt_beep (b : Byte) : (s.setSt b).beep = s.beep := rfl
@[simp] theorem getV_setSt (b : Byte) (q : Reg) : (s.setSt b).getV q = s.getV q := rfl
@[simp] theorem stackAt_setSt (b : Byte) (k : Nat) : (s.setSt b).stackAt k = s.stackAt k := rfl
@[simp] theorem pixel_setSt (b : Byte) (p : Nat) : (s.setSt b).pixel p = s.pixel p := rfl
@[simp] theorem readMem_setSt (b : Byte) (a' : Nat) : (s.setSt b).readMem a' = s.readMem a' := rfl
@[simp] theorem keyPressed_setSt (b : Byte) (k : Nat) : (s.setSt b).keyPressed k = s.keyPressed k := rfl

/-! ## `State.writeAtI` -/

@[simp] theorem writeAtI_v (bytes : List Byte) : (s.writeAtI bytes).v = s.v := rfl
@[simp] theorem writeAtI_iReg (bytes : List Byte) : (s.writeAtI bytes).iReg = s.iReg := rfl
@[simp] theorem writeAtI_pc (bytes : List Byte) : (s.writeAtI bytes).pc = s.pc := rfl
@[simp] theorem writeAtI_sp (bytes : List Byte) : (s.writeAtI bytes).sp = s.sp := rfl
@[simp] theorem writeAtI_stack (bytes : List Byte) : (s.writeAtI bytes).stack = s.stack := rfl
@[simp] theorem writeAtI_dt (bytes : List Byte) : (s.writeAtI bytes).dt = s.dt := rfl
@[simp] theorem writeAtI_st (bytes : List Byte) : (s.writeAtI bytes).st = s.st := rfl
@[simp] theorem writeAtI_keys (bytes : List Byte) : (s.writeAtI bytes).keys = s.keys := rfl
@[simp] theorem writeAtI_fb (bytes : List Byte) : (s.writeAtI bytes).fb = s.fb := rfl
@[simp] theorem writeAtI_draw (bytes : List Byte) : (s.writeAtI bytes).draw = s.draw := rfl
@[simp] theorem writeAtI_mem (bytes : List Byte) : (s.writeAtI bytes).mem = s.mem.writeRange s.iReg.toNat bytes := rfl
@[simp] theorem writeAtI_rng (bytes : List Byte) : (s.writeAtI bytes).rng = s.rng := rfl
@[simp] theorem writeAtI_rngMode (bytes : List Byte) : (s.writeAtI bytes).rngMode = s.rngMode := rfl
@[simp] theorem writeAtI_drawCount (bytes : List Byte) : (s.writeAtI bytes).drawCount = s.drawCount := rfl
@[simp] theorem writeAtI_halted (bytes : List Byte) : (s.writeAtI bytes).halted = s.halted := rfl
@[simp] theorem writeAtI_fault (bytes : List Byte) : (s.writeAtI bytes).fault = s.fault := rfl
@[simp] theorem writeAtI_beep (bytes : List Byte) : (s.writeAtI bytes).beep = s.beep := rfl
@[simp] theorem getV_writeAtI (bytes : List Byte) (q : Reg) : (s.writeAtI bytes).getV q = s.getV q := rfl
@[simp] theorem stackAt_writeAtI (bytes : List Byte) (k : Nat) : (s.writeAtI bytes).stackAt k = s.stackAt k := rfl
@[simp] theorem pixel_writeAtI (bytes : List Byte) (p : Nat) : (s.writeAtI bytes).pixel p = s.pixel p := rfl
@[simp] theorem keyPressed_writeAtI (bytes : List Byte) (k : Nat) : (s.writeAtI bytes).keyPressed k = s.keyPressed k := rfl

/-! ## `State.enterFault` -/

@[simp] theorem enterFault_v (reason : FaultReason) : (s.enterFault reason).v = s.v := rfl
@[simp] theorem enterFault_iReg (reason : FaultReason) : (s.enterFault reason).iReg = s.iReg := rfl
@[simp] theorem enterFault_pc (reason : FaultReason) : (s.enterFault reason).pc = s.pc := rfl
@[simp] theorem enterFault_sp (reason : FaultReason) : (s.enterFault reason).sp = s.sp := rfl
@[simp] theorem enterFault_stack (reason : FaultReason) : (s.enterFault reason).stack = s.stack := rfl
@[simp] theorem enterFault_dt (reason : FaultReason) : (s.enterFault reason).dt = s.dt := rfl
@[simp] theorem enterFault_st (reason : FaultReason) : (s.enterFault reason).st = s.st := rfl
@[simp] theorem enterFault_keys (reason : FaultReason) : (s.enterFault reason).keys = s.keys := rfl
@[simp] theorem enterFault_fb (reason : FaultReason) : (s.enterFault reason).fb = s.fb := rfl
@[simp] theorem enterFault_draw (reason : FaultReason) : (s.enterFault reason).draw = s.draw := rfl
@[simp] theorem enterFault_mem (reason : FaultReason) : (s.enterFault reason).mem = s.mem := rfl
@[simp] theorem enterFault_rng (reason : FaultReason) : (s.enterFault reason).rng = s.rng := rfl
@[simp] theorem enterFault_rngMode (reason : FaultReason) : (s.enterFault reason).rngMode = s.rngMode := rfl
@[simp] theorem enterFault_drawCount (reason : FaultReason) : (s.enterFault reason).drawCount = s.drawCount := rfl
@[simp] theorem enterFault_halted (reason : FaultReason) : (s.enterFault reason).halted = true := rfl
@[simp] theorem enterFault_fault (reason : FaultReason) : (s.enterFault reason).fault = some { reason := reason, pc := s.pc, opcode := s.faultOpcode reason } := rfl
@[simp] theorem enterFault_beep (reason : FaultReason) : (s.enterFault reason).beep = false := rfl
@[simp] theorem getV_enterFault (reason : FaultReason) (q : Reg) : (s.enterFault reason).getV q = s.getV q := rfl
@[simp] theorem stackAt_enterFault (reason : FaultReason) (k : Nat) : (s.enterFault reason).stackAt k = s.stackAt k := rfl
@[simp] theorem pixel_enterFault (reason : FaultReason) (p : Nat) : (s.enterFault reason).pixel p = s.pixel p := rfl
@[simp] theorem readMem_enterFault (reason : FaultReason) (a' : Nat) : (s.enterFault reason).readMem a' = s.readMem a' := rfl
@[simp] theorem keyPressed_enterFault (reason : FaultReason) (k : Nat) : (s.enterFault reason).keyPressed k = s.keyPressed k := rfl

/-! ## `State.tick` -/

@[simp] theorem tick_v : (s.tick).v = s.v := rfl
@[simp] theorem tick_iReg : (s.tick).iReg = s.iReg := rfl
@[simp] theorem tick_pc : (s.tick).pc = s.pc := rfl
@[simp] theorem tick_sp : (s.tick).sp = s.sp := rfl
@[simp] theorem tick_stack : (s.tick).stack = s.stack := rfl
@[simp] theorem tick_dt : (s.tick).dt = if s.dt = 0 then 0 else s.dt - 1 := rfl
@[simp] theorem tick_st : (s.tick).st = if s.st = 0 then 0 else s.st - 1 := rfl
@[simp] theorem tick_keys : (s.tick).keys = s.keys := rfl
@[simp] theorem tick_fb : (s.tick).fb = s.fb := rfl
@[simp] theorem tick_draw : (s.tick).draw = s.draw := rfl
@[simp] theorem tick_mem : (s.tick).mem = s.mem := rfl
@[simp] theorem tick_rng : (s.tick).rng = s.rng := rfl
@[simp] theorem tick_rngMode : (s.tick).rngMode = s.rngMode := rfl
@[simp] theorem tick_drawCount : (s.tick).drawCount = s.drawCount := rfl
@[simp] theorem tick_halted : (s.tick).halted = s.halted := rfl
@[simp] theorem tick_fault : (s.tick).fault = s.fault := rfl
@[simp] theorem tick_beep : (s.tick).beep = (s.st == 1) := rfl
@[simp] theorem getV_tick (q : Reg) : (s.tick).getV q = s.getV q := rfl
@[simp] theorem stackAt_tick (k : Nat) : (s.tick).stackAt k = s.stackAt k := rfl
@[simp] theorem pixel_tick (p : Nat) : (s.tick).pixel p = s.pixel p := rfl
@[simp] theorem readMem_tick (a' : Nat) : (s.tick).readMem a' = s.readMem a' := rfl
@[simp] theorem keyPressed_tick (k : Nat) : (s.tick).keyPressed k = s.keyPressed k := rfl

/-! ## `State.idleCycle` -/

@[simp] theorem idleCycle_v : (s.idleCycle).v = s.v := rfl
@[simp] theorem idleCycle_iReg : (s.idleCycle).iReg = s.iReg := rfl
@[simp] theorem idleCycle_pc : (s.idleCycle).pc = s.pc := rfl
@[simp] theorem idleCycle_sp : (s.idleCycle).sp = s.sp := rfl
@[simp] theorem idleCycle_stack : (s.idleCycle).stack = s.stack := rfl
@[simp] theorem idleCycle_dt : (s.idleCycle).dt = s.dt := rfl
@[simp] theorem idleCycle_st : (s.idleCycle).st = s.st := rfl
@[simp] theorem idleCycle_keys : (s.idleCycle).keys = s.keys := rfl
@[simp] theorem idleCycle_fb : (s.idleCycle).fb = s.fb := rfl
@[simp] theorem idleCycle_draw : (s.idleCycle).draw = s.draw := rfl
@[simp] theorem idleCycle_mem : (s.idleCycle).mem = s.mem := rfl
@[simp] theorem idleCycle_rng : (s.idleCycle).rng = s.rng := rfl
@[simp] theorem idleCycle_rngMode : (s.idleCycle).rngMode = s.rngMode := rfl
@[simp] theorem idleCycle_drawCount : (s.idleCycle).drawCount = s.drawCount := rfl
@[simp] theorem idleCycle_halted : (s.idleCycle).halted = s.halted := rfl
@[simp] theorem idleCycle_fault : (s.idleCycle).fault = s.fault := rfl
@[simp] theorem idleCycle_beep : (s.idleCycle).beep = false := rfl
@[simp] theorem getV_idleCycle (q : Reg) : (s.idleCycle).getV q = s.getV q := rfl
@[simp] theorem stackAt_idleCycle (k : Nat) : (s.idleCycle).stackAt k = s.stackAt k := rfl
@[simp] theorem pixel_idleCycle (p : Nat) : (s.idleCycle).pixel p = s.pixel p := rfl
@[simp] theorem readMem_idleCycle (a' : Nat) : (s.idleCycle).readMem a' = s.readMem a' := rfl
@[simp] theorem keyPressed_idleCycle (k : Nat) : (s.idleCycle).keyPressed k = s.keyPressed k := rfl

/-! ## `State.placeWord` -/

@[simp] theorem placeWord_v (w : Word) : (s.placeWord w).v = s.v := rfl
@[simp] theorem placeWord_iReg (w : Word) : (s.placeWord w).iReg = s.iReg := rfl
@[simp] theorem placeWord_pc (w : Word) : (s.placeWord w).pc = s.pc := rfl
@[simp] theorem placeWord_sp (w : Word) : (s.placeWord w).sp = s.sp := rfl
@[simp] theorem placeWord_stack (w : Word) : (s.placeWord w).stack = s.stack := rfl
@[simp] theorem placeWord_dt (w : Word) : (s.placeWord w).dt = s.dt := rfl
@[simp] theorem placeWord_st (w : Word) : (s.placeWord w).st = s.st := rfl
@[simp] theorem placeWord_keys (w : Word) : (s.placeWord w).keys = s.keys := rfl
@[simp] theorem placeWord_fb (w : Word) : (s.placeWord w).fb = s.fb := rfl
@[simp] theorem placeWord_draw (w : Word) : (s.placeWord w).draw = s.draw := rfl
@[simp] theorem placeWord_mem (w : Word) : (s.placeWord w).mem = s.mem.writeRange s.pc.toNat [hiByte w, loByte w] := rfl
@[simp] theorem placeWord_rng (w : Word) : (s.placeWord w).rng = s.rng := rfl
@[simp] theorem placeWord_rngMode (w : Word) : (s.placeWord w).rngMode = s.rngMode := rfl
@[simp] theorem placeWord_drawCount (w : Word) : (s.placeWord w).drawCount = s.drawCount := rfl
@[simp] theorem placeWord_halted (w : Word) : (s.placeWord w).halted = s.halted := rfl
@[simp] theorem placeWord_fault (w : Word) : (s.placeWord w).fault = s.fault := rfl
@[simp] theorem placeWord_beep (w : Word) : (s.placeWord w).beep = s.beep := rfl
@[simp] theorem getV_placeWord (w : Word) (q : Reg) : (s.placeWord w).getV q = s.getV q := rfl
@[simp] theorem stackAt_placeWord (w : Word) (k : Nat) : (s.placeWord w).stackAt k = s.stackAt k := rfl
@[simp] theorem pixel_placeWord (w : Word) (p : Nat) : (s.placeWord w).pixel p = s.pixel p := rfl
@[simp] theorem keyPressed_placeWord (w : Word) (k : Nat) : (s.placeWord w).keyPressed k = s.keyPressed k := rfl

/-! ## Updates that depend on a condition -/

@[simp] theorem skipIf_v (c : Bool) : (s.skipIf c).v = s.v := by cases c <;> rfl
@[simp] theorem skipIf_iReg (c : Bool) : (s.skipIf c).iReg = s.iReg := by cases c <;> rfl
@[simp] theorem skipIf_pc (c : Bool) : (s.skipIf c).pc = if c then s.pc + 2 else s.pc := by cases c <;> rfl
@[simp] theorem skipIf_sp (c : Bool) : (s.skipIf c).sp = s.sp := by cases c <;> rfl
@[simp] theorem skipIf_stack (c : Bool) : (s.skipIf c).stack = s.stack := by cases c <;> rfl
@[simp] theorem skipIf_dt (c : Bool) : (s.skipIf c).dt = s.dt := by cases c <;> rfl
@[simp] theorem skipIf_st (c : Bool) : (s.skipIf c).st = s.st := by cases c <;> rfl
@[simp] theorem skipIf_keys (c : Bool) : (s.skipIf c).keys = s.keys := by cases c <;> rfl
@[simp] theorem skipIf_fb (c : Bool) : (s.skipIf c).fb = s.fb := by cases c <;> rfl
@[simp] theorem skipIf_draw (c : Bool) : (s.skipIf c).draw = s.draw := by cases c <;> rfl
@[simp] theorem skipIf_mem (c : Bool) : (s.skipIf c).mem = s.mem := by cases c <;> rfl
@[simp] theorem skipIf_rng (c : Bool) : (s.skipIf c).rng = s.rng := by cases c <;> rfl
@[simp] theorem skipIf_rngMode (c : Bool) : (s.skipIf c).rngMode = s.rngMode := by cases c <;> rfl
@[simp] theorem skipIf_drawCount (c : Bool) : (s.skipIf c).drawCount = s.drawCount := by cases c <;> rfl
@[simp] theorem skipIf_halted (c : Bool) : (s.skipIf c).halted = s.halted := by cases c <;> rfl
@[simp] theorem skipIf_fault (c : Bool) : (s.skipIf c).fault = s.fault := by cases c <;> rfl
@[simp] theorem skipIf_beep (c : Bool) : (s.skipIf c).beep = s.beep := by cases c <;> rfl
@[simp] theorem getV_skipIf (c : Bool) (q : Reg) : (s.skipIf c).getV q = s.getV q := by cases c <;> rfl
@[simp] theorem stackAt_skipIf (c : Bool) (k : Nat) : (s.skipIf c).stackAt k = s.stackAt k := by cases c <;> rfl
@[simp] theorem pixel_skipIf (c : Bool) (p : Nat) : (s.skipIf c).pixel p = s.pixel p := by cases c <;> rfl
@[simp] theorem readMem_skipIf (c : Bool) (a' : Nat) : (s.skipIf c).readMem a' = s.readMem a' := by cases c <;> rfl
@[simp] theorem keyPressed_skipIf (c : Bool) (k : Nat) : (s.skipIf c).keyPressed k = s.keyPressed k := by cases c <;> rfl

@[simp] theorem afterRandom_v : s.afterRandom.v = s.v := by unfold State.afterRandom; split <;> rfl
@[simp] theorem afterRandom_iReg : s.afterRandom.iReg = s.iReg := by unfold State.afterRandom; split <;> rfl
@[simp] theorem afterRandom_pc : s.afterRandom.pc = s.pc := by unfold State.afterRandom; split <;> rfl
@[simp] theorem afterRandom_sp : s.afterRandom.sp = s.sp := by unfold State.afterRandom; split <;> rfl
@[simp] theorem afterRandom_stack : s.afterRandom.stack = s.stack := by unfold State.afterRandom; split <;> rfl
@[simp] theorem afterRandom_dt : s.afterRandom.dt = s.dt := by unfold State.afterRandom; split <;> rfl
@[simp] theorem afterRandom_st : s.afterRandom.st = s.st := by unfold State.afterRandom; split <;> rfl
@[simp] theorem afterRandom_keys : s.afterRandom.keys = s.keys := by unfold State.afterRandom; split <;> rfl
@[simp] theorem afterRandom_fb : s.afterRandom.fb = s.fb := by unfold State.afterRandom; split <;> rfl
@[simp] theorem afterRandom_draw : s.afterRandom.draw = s.draw := by unfold State.afterRandom; split <;> rfl
@[simp] theorem afterRandom_mem : s.afterRandom.mem = s.mem := by unfold State.afterRandom; split <;> rfl
@[simp] theorem afterRandom_rngMode : s.afterRandom.rngMode = s.rngMode := by unfold State.afterRandom; split <;> rfl
@[simp] theorem afterRandom_halted : s.afterRandom.halted = s.halted := by unfold State.afterRandom; split <;> rfl
@[simp] theorem afterRandom_fault : s.afterRandom.fault = s.fault := by unfold State.afterRandom; split <;> rfl
@[simp] theorem afterRandom_beep : s.afterRandom.beep = s.beep := by unfold State.afterRandom; split <;> rfl
@[simp] theorem getV_afterRandom (q : Reg) : s.afterRandom.getV q = s.getV q := by
  unfold State.afterRandom; split <;> rfl
@[simp] theorem stackAt_afterRandom (k : Nat) : s.afterRandom.stackAt k = s.stackAt k := by
  unfold State.afterRandom; split <;> rfl
@[simp] theorem pixel_afterRandom (p : Nat) : s.afterRandom.pixel p = s.pixel p := by
  unfold State.afterRandom; split <;> rfl
@[simp] theorem readMem_afterRandom (a' : Nat) : s.afterRandom.readMem a' = s.readMem a' := by
  unfold State.afterRandom; split <;> rfl
@[simp] theorem keyPressed_afterRandom (k : Nat) : s.afterRandom.keyPressed k = s.keyPressed k := by
  unfold State.afterRandom; split <;> rfl

theorem afterRandom_in_stream (h : s.rngMode = .stream) :
    s.afterRandom.rng = xorshift32 s.rng ∧ s.afterRandom.drawCount = s.drawCount := by
  simp [State.afterRandom, h]

theorem afterRandom_in_draw (h : s.rngMode = .draw) :
    s.afterRandom.rng = s.rng ∧ s.afterRandom.drawCount = s.drawCount + 1 := by
  simp [State.afterRandom, h]

end Sys2Proof.Machine
end

