-- ==== Sys2Proof/Laws/Registers.lean ====
section
/-! SUPPORT. The registers, the register block and the call stack: reads after writes, and what a push and a pop do. -/

namespace Sys2Proof.Machine

/-! ## V registers -/

theorem getV_setV (s : State) (r q : Reg) (b : Byte) : (s.setV r b).getV q = if q = r then b else s.getV q := by
  simp only [State.getV, State.setV, Vector.getElem_set, Fin.val_inj, eq_comm]

@[simp] theorem getV_setV_same (s : State) (r : Reg) (b : Byte) : (s.setV r b).getV r = b := by simp [getV_setV]

@[simp] theorem getV_setV_other (s : State) (r q : Reg) (b : Byte) (h : q ≠ r) : (s.setV r b).getV q = s.getV q := by
  simp [getV_setV, h]

/-- The result and the flag of a flag-setting instruction: VF ends holding the flag, whatever x is (R47). -/
theorem getV_setVAndFlag (s : State) (x q : Reg) (result flag : Byte) :
    (s.setVAndFlag x result flag).getV q = if q = regVF then flag else if q = x then result else s.getV q := by
  simp only [State.setVAndFlag, getV_setV]

/-- Two states are the same when every field but V is and every V register is. -/
theorem state_ext_v (s t : State) (h : ∀ q, s.getV q = t.getV q) (e : { s with v := t.v } = t) : s = t := by
  have : s.v = t.v := by
    apply Vector.ext
    intro k hk
    exact h ⟨k, hk⟩
  rw [← e, ← this]

/-! ## The register block -/

@[simp] theorem regBlock_length (s : State) (n : Nat) : (s.regBlock n).length = n := by simp [State.regBlock]

theorem regBlock_getD (s : State) (n k : Nat) (h : k < n) : (s.regBlock n).getD k 0 = s.getV (Fin.ofNat 16 k) := by
  simp [State.regBlock, List.getD_eq_getElem?_getD, h]

/-- A load of the first `n` registers gives each its byte and leaves the others alone (R85). -/
theorem getV_loadRegs (s : State) (bytes : List Byte) (n : Nat) (q : Reg) (h : n ≤ 16) :
    (s.loadRegs bytes n).getV q = if q.val < n then bytes.getD q.val 0 else s.getV q := by
  induction n with
  | zero => simp [State.loadRegs]
  | succ n ih =>
    have hn : (Fin.ofNat 16 n).val = n := Nat.mod_eq_of_lt (by omega)
    rw [State.loadRegs, getV_setV, ih (by omega)]
    by_cases hq : q = Fin.ofNat 16 n
    · rw [if_pos hq, if_pos (by rw [hq, hn]; omega), hq, hn]
    · have : q.val ≠ n := fun e => hq (Fin.ext (by omega))
      rw [if_neg hq]
      by_cases hl : q.val < n
      · rw [if_pos hl, if_pos (by omega)]
      · rw [if_neg hl, if_neg (by omega)]

/-- A load of registers changes no field but V. -/
theorem loadRegs_eq (s : State) (bytes : List Byte) (n : Nat) :
    s.loadRegs bytes n = { s with v := (s.loadRegs bytes n).v } := by
  induction n with
  | zero => rfl
  | succ n ih => rw [State.loadRegs, ih]; rfl

/-! ## The call stack -/

/-- A push below the full depth: the entry at SP is written, the others stay, and SP is one higher (R19). -/
theorem push_spec (s : State) (a : Word) (h : s.sp.val < 15) :
    ∃ t, s.push a = some t ∧ t = { s with stack := t.stack, sp := s.sp + 1 } ∧ t.sp.val = s.sp.val + 1 ∧
      ∀ k, t.stackAt k = if k = s.sp.val then a else s.stackAt k := by
  refine ⟨_, by rw [State.push, if_neg (by omega)], rfl, ?_, fun k => ?_⟩
  · have := Fin.val_add s.sp 1
    simp only [this]
    omega
  · simp only [State.stackAt, Vector.getElem?_setIfInBounds]
    by_cases hk : k = s.sp.val
    · subst hk; simp [h]
    · simp [hk, Ne.symm hk]

/-- A push on a full stack answers nothing (R19). -/
theorem push_full (s : State) (a : Word) (h : s.sp.val = 15) : s.push a = none := by simp [State.push, h]

/-- A pop of a stack that is not empty: the entry below SP, and SP is one lower (R19, R60). -/
theorem pop_spec (s : State) (h : 0 < s.sp.val) :
    ∃ t, s.pop = some (s.stackAt (s.sp.val - 1), t) ∧ t = { s with sp := s.sp - 1 } ∧ t.sp.val = s.sp.val - 1 := by
  refine ⟨_, by rw [State.pop, if_neg (by omega)], rfl, ?_⟩
  have := s.sp.isLt
  simp only [Fin.sub_def]
  show (16 - 1 + s.sp.val) % 16 = _
  omega

/-- A pop of an empty stack answers nothing (R19). -/
theorem pop_empty (s : State) (h : s.sp.val = 0) : s.pop = none := by simp [State.pop, h]

/-! ## Keys -/

/-- The ascending scan finds the highest pressed key below `n` (R98). -/
theorem lastPressed_eq_some (s : State) (n k : Nat) :
    s.lastPressed n = some k ↔ k < n ∧ s.keyPressed k = true ∧ ∀ j, k < j → j < n → s.keyPressed j = false := by
  induction n with
  | zero => simp [State.lastPressed]
  | succ n ih =>
    simp only [State.lastPressed]
    split
    · rename_i hp
      constructor
      · rintro ⟨⟩; exact ⟨by omega, hp, fun j _ _ => by omega⟩
      · rintro ⟨hk, _, hj⟩
        by_cases e : k = n
        · rw [e]
        · exact absurd hp (by simp [hj n (by omega) (by omega)])
    · rename_i hp
      rw [ih]
      constructor
      · rintro ⟨hk, hq, hj⟩
        refine ⟨by omega, hq, fun j h1 h2 => ?_⟩
        by_cases e : j = n
        · subst e; simpa using hp
        · exact hj j h1 (by omega)
      · rintro ⟨hk, hq, hj⟩
        have : k ≠ n := by rintro rfl; exact hp hq
        exact ⟨by omega, hq, fun j h1 h2 => hj j h1 (by omega)⟩

/-- The scan finds nothing exactly when no key below `n` is pressed (R98). -/
theorem lastPressed_eq_none (s : State) (n : Nat) : s.lastPressed n = none ↔ ∀ k, k < n → s.keyPressed k = false := by
  induction n with
  | zero => simp [State.lastPressed]
  | succ n ih =>
    simp only [State.lastPressed]
    split
    · rename_i hp
      simp only [reduceCtorEq, false_iff, not_forall]
      exact ⟨n, by omega, by simp [hp]⟩
    · rename_i hp
      rw [ih]
      refine ⟨fun h k hk => ?_, fun h k hk => h k (by omega)⟩
      by_cases e : k = n
      · subst e; simpa using hp
      · exact h k (by omega)

end Sys2Proof.Machine
end

