-- ==== Sys2Proof/Laws/Frames.lean ====
section
/-! SUPPORT. What the shared operations of the meanings leave unchanged, said once for each. -/

namespace Sys2Proof.Machine

/-- The advance of the fetch changes pc alone. -/
theorem sameButPc_advance (s : State) : SameButPc s s.advance :=
  ⟨fun _ _ => rfl, rfl, ⟨rfl, fun _ => rfl⟩, ⟨rfl, rfl⟩, ⟨fun _ => rfl, rfl⟩, fun _ => rfl, ⟨rfl, rfl⟩, ⟨rfl, rfl⟩,
    rfl, rfl, rfl⟩

/-- A jump changes pc alone. -/
theorem sameButPc_jump (s : State) (a : Word) : SameButPc s (s.advance.setPc a) := sameButPc_advance s

/-- A skip changes pc alone. -/
theorem sameButPc_skipIf (s : State) (c : Bool) : SameButPc s (s.advance.skipIf c) := by
  cases c <;> exact sameButPc_advance s

/-- Where a skip leaves pc (R17). -/
theorem skipIf_advance_pc (s : State) (c : Bool) :
    (s.advance.skipIf c).pc = if c = true then s.pc + 4 else s.pc + 2 := by
  rw [skipIf_pc]
  split
  · rw [advance_pc, BitVec.add_assoc]; rfl
  · rfl

/-- A write of one register changes pc and that register alone. -/
theorem sameButV_setV (s : State) (x : Reg) (b : Byte) : SameButV [x] s (s.advance.setV x b) :=
  ⟨fun r hr => getV_setV_other _ _ _ _ (by simpa using hr), (sameButPc_advance s).2⟩

/-- A result and a flag change pc, the destination and VF alone. -/
theorem sameButV_setVAndFlag (s : State) (x : Reg) (result flag : Byte) :
    SameButV [x, regVF] s (s.advance.setVAndFlag x result flag) := by
  refine ⟨fun r hr => ?_, (sameButPc_advance s).2⟩
  simp only [List.mem_cons, List.not_mem_nil, or_false, not_or] at hr
  rw [getV_setVAndFlag, if_neg hr.2, if_neg hr.1]
  rfl

/-- Drawing a random value changes the generator alone. -/
theorem afterRandom_eq (s : State) :
    s.afterRandom = { s with rng := s.afterRandom.rng, drawCount := s.afterRandom.drawCount } := by
  unfold State.afterRandom; split <;> rfl

end Sys2Proof.Machine
end

