-- ==== Sys2Proof/Laws/Memory.lean ====
section
/-! SUPPORT. The memory operations: a read after a write, range reads and writes, and that every operation keeps the
canonical form. The read laws hold for any list of cells, in canonical form or not. -/

namespace Sys2Proof.Machine

/-! ## One byte -/

theorem read_erase (m : Memory) (a b : Nat) :
    (Memory.erase m a).read b = if b = a then Memory.base b else m.read b := by
  induction m with
  | nil => simp [Memory.erase, Memory.read]
  | cons c rest ih =>
    obtain ⟨k, x⟩ := c
    simp only [Memory.erase, bne_iff_ne, ne_eq, List.filter_cons] at ih ⊢
    by_cases hk : k = a
    · subst hk
      by_cases hb : b = k
      · simp_all
      · simp_all [Memory.read, Ne.symm hb]
    · simp only [hk, not_false_eq_true, if_true, Memory.read]
      by_cases hb : k = b
      · simp [hb, show b ≠ a by omega]
      · simp [hb, ih]

theorem read_insert (m : Memory) (a b : Nat) (x : Byte) (h : ∀ c ∈ m, c.1 ≠ a) :
    (Memory.insert m a x).read b = if b = a then x else m.read b := by
  induction m with
  | nil => simp [Memory.insert, Memory.read, eq_comm]
  | cons c rest ih =>
    obtain ⟨k, y⟩ := c
    have hk : k ≠ a := h (k, y) (by simp)
    have ih := ih (fun c hc => h c (by simp [hc]))
    simp only [Memory.insert]
    split
    · simp [Memory.read, eq_comm]
    · simp only [Memory.read, ih]
      by_cases hb : k = b
      · simp [hb, show b ≠ a by omega]
      · simp [hb]

theorem mem_erase (m : Memory) (a : Nat) : ∀ c ∈ Memory.erase m a, c.1 ≠ a := by
  simp [Memory.erase]

/-- A read after a write gives the byte written at its address and leaves every other address alone. -/
theorem read_write (m : Memory) (a b : Nat) (x : Byte) (h : a < memSize) :
    (Memory.write m a x).read b = if b = a then x else m.read b := by
  simp only [Memory.write, h, if_true]
  split
  · rename_i hx; rw [read_erase, hx]; split <;> simp_all
  · rw [read_insert _ _ _ _ (mem_erase m a), read_erase]; split <;> rfl

@[simp] theorem write_outside (m : Memory) (a : Nat) (x : Byte) (h : ¬ a < memSize) : Memory.write m a x = m := by
  simp [Memory.write, h]

/-! ## Ranges -/

@[simp] theorem readRange_length (m : Memory) (a n : Nat) : (Memory.readRange m a n).length = n := by
  induction n generalizing a with
  | zero => rfl
  | succ n ih => simp [Memory.readRange, ih]

theorem readRange_getElem? (m : Memory) (a n k : Nat) :
    (Memory.readRange m a n)[k]? = if k < n then some (m.read (a + k)) else none := by
  induction n generalizing a k with
  | zero => simp [Memory.readRange]
  | succ n ih =>
    cases k with
    | zero => simp [Memory.readRange]
    | succ k => simp [Memory.readRange, ih, show a + 1 + k = a + (k + 1) by omega]

theorem readRange_getD (m : Memory) (a n k : Nat) (h : k < n) :
    (Memory.readRange m a n).getD k 0 = m.read (a + k) := by
  rw [List.getD_eq_getElem?_getD, readRange_getElem?, if_pos h, Option.getD_some]

/-- A range write within memory leaves, at each address of the range, its byte, and every other address alone. -/
theorem read_writeRange (m : Memory) (a b : Nat) (bytes : List Byte) (h : a + bytes.length ≤ memSize) :
    (Memory.writeRange m a bytes).read b =
      if a ≤ b ∧ b < a + bytes.length then bytes.getD (b - a) 0 else m.read b := by
  induction bytes generalizing m a with
  | nil => simp [Memory.writeRange, show ¬ (a ≤ b ∧ b < a) by omega]
  | cons x rest ih =>
    simp only [List.length_cons] at h ⊢
    rw [Memory.writeRange, ih _ _ (by omega), read_write _ _ _ _ (by omega)]
    by_cases hb : b = a
    · subst hb; simp
    · by_cases hr : a + 1 ≤ b ∧ b < a + 1 + rest.length
      · obtain ⟨j, rfl⟩ : ∃ j, b = a + 1 + j := ⟨b - (a + 1), by omega⟩
        have e : a + 1 + j - a = j + 1 := by omega
        simp only [hr, e, and_self, if_true, if_pos (show a ≤ a + 1 + j ∧ a + 1 + j < a + (rest.length + 1) by omega),
          List.getD_cons_succ, Nat.add_sub_cancel_left]
      · rw [if_neg hr, if_neg hb, if_neg (by omega)]

/-! ## The canonical form -/

theorem erase_wf (m : Memory) (a : Nat) (h : m.wf) : (Memory.erase m a).wf :=
  ⟨h.1.filter _, fun c hc => h.2 c (List.mem_of_mem_filter hc)⟩

theorem mem_insert (m : Memory) (a : Nat) (x : Byte) (c : Host.Cell) :
    c ∈ Memory.insert m a x ↔ c = (a, x) ∨ c ∈ m := by
  induction m with
  | nil => simp [Memory.insert]
  | cons d rest ih =>
    obtain ⟨k, y⟩ := d
    simp only [Memory.insert]
    split
    · simp
    · simp only [List.mem_cons, ih]; tauto

theorem insert_wf (m : Memory) (a : Nat) (x : Byte) (h : m.wf) (ha : a < memSize) (hx : x ≠ Memory.base a)
    (hm : ∀ c ∈ m, c.1 ≠ a) : (Memory.insert m a x).wf := by
  refine ⟨?_, fun c hc => ?_⟩
  · replace h := h.1
    induction m with
    | nil => simp [Memory.insert]
    | cons d rest ih =>
      obtain ⟨k, y⟩ := d
      have hk : k ≠ a := hm (k, y) (by simp)
      rw [List.pairwise_cons] at h
      simp only [Memory.insert]
      split
      · rename_i hlt
        refine List.pairwise_cons.2 ⟨fun c hc => ?_, List.pairwise_cons.2 h⟩
        rcases List.mem_cons.1 hc with rfl | hc
        · exact hlt
        · exact Nat.lt_trans hlt (h.1 c hc)
      · refine List.pairwise_cons.2 ⟨fun c hc => ?_, ih (fun c hc => hm c (by simp [hc])) h.2⟩
        rcases (mem_insert _ _ _ _).1 hc with rfl | hc
        · simp only; omega
        · exact h.1 c hc
  · rcases (mem_insert _ _ _ _).1 hc with rfl | hc
    · exact ⟨ha, hx⟩
    · exact h.2 c hc

theorem write_wf (m : Memory) (a : Nat) (x : Byte) (h : m.wf) : (Memory.write m a x).wf := by
  unfold Memory.write
  split
  · split
    · exact erase_wf m a h
    · exact insert_wf _ _ _ (erase_wf m a h) ‹_› ‹_› (mem_erase m a)
  · exact h

theorem writeRange_wf (m : Memory) (a : Nat) (bytes : List Byte) (h : m.wf) : (Memory.writeRange m a bytes).wf := by
  induction bytes generalizing m a with
  | nil => exact h
  | cons x rest ih => exact ih _ _ (write_wf _ _ _ h)

theorem writeAtI_memOk (s : State) (bytes : List Byte) (h : s.MemOk) : (s.writeAtI bytes).MemOk :=
  writeRange_wf _ _ _ h

theorem placeWord_memOk (s : State) (w : Word) (h : s.MemOk) : (s.placeWord w).MemOk := writeRange_wf _ _ _ h

theorem reset_mem_wf : Memory.wf State.reset.mem := by decide

/-! ## In a state -/

theorem readAtI_getD (s : State) (n k : Nat) (h : k < n) :
    (s.readAtI n).getD k 0 = s.readMem (s.iReg.toNat + k) := readRange_getD _ _ _ _ h

@[simp] theorem readAtI_length (s : State) (n : Nat) : (s.readAtI n).length = n := readRange_length _ _ _

/-- What a store at I leaves in memory. -/
theorem readMem_writeAtI (s : State) (bytes : List Byte) (b : Nat) (h : s.iReg.toNat + bytes.length ≤ memSize) :
    (s.writeAtI bytes).readMem b =
      if s.iReg.toNat ≤ b ∧ b < s.iReg.toNat + bytes.length then bytes.getD (b - s.iReg.toNat) 0 else s.readMem b :=
  read_writeRange _ _ _ _ h

/-- The check of R35 passes exactly when every byte of the access exists. -/
theorem reachable_iff (s : State) (n : Nat) : s.reachable n = true ↔ n = 0 ∨ s.iReg.toNat + n - 1 ≤ 0xFFF := by
  by_cases h : n = 0
  · simp [State.reachable, h]
  · have e : s.iReg.toNat + n - 1 ≤ 0xFFF ↔ s.iReg.toNat + n ≤ memSize := by unfold memSize; omega
    simp [State.reachable, h, e]

end Sys2Proof.Machine
end

