-- ==== Sys2Proof/Laws/PerInstr.lean ====
section
/-! SUPPORT. The per-instruction family `MatchesRow`: the word a well-formed instruction is encoded as lies in the
instruction's own row of the opcode map (R52). -/

namespace Sys2Proof.Laws.MatchesRow

/-- The encoded word of a well-formed instruction matches the instruction's row (R52). -/
def Statement (i : Instr) : Prop := i.wellFormed = true → i.row.matchesWord (encode i) = true

theorem nnn_row (op : Nat) (addr : Word) (ho : op < 16) (h : addrFits addr = true) :
    OpRow.matchesWord (BitVec.ofNat 16 (op * 2 ^ 12), 0xF000) (packNnn op addr) = true :=
  (matchesWord_op _ op ho).2 (fields_packNnn op addr ho (of_decide_eq_true h)).1

theorem xkk_row (op : Nat) (x : Reg) (kk : Byte) (ho : op < 16) :
    OpRow.matchesWord (BitVec.ofNat 16 (op * 2 ^ 12), 0xF000) (packXkk op x kk) = true :=
  (matchesWord_op _ op ho).2 (fields_packXkk op x kk ho).1

theorem xyn_row (op : Nat) (x y : Reg) (n : Nat) (ho : op < 16) (hn : n < 16) :
    OpRow.matchesWord (BitVec.ofNat 16 (op * 2 ^ 12) ||| BitVec.ofNat 16 n, 0xF00F) (packXyn op x y n) = true :=
  have f := fields_packXyn op x y n ho hn
  (matchesWord_opN _ op n ho hn).2 ⟨f.1, f.2.2.2⟩

theorem sub_row (op : Nat) (x : Reg) (kk : Byte) (ho : op < 16) :
    OpRow.matchesWord (BitVec.ofNat 16 (op * 2 ^ 12) ||| kk.setWidth 16, 0xF0FF) (packXkk op x kk) = true :=
  have f := fields_packXkk op x kk ho
  (matchesWord_opKk _ op kk ho).2 ⟨f.1, f.2.2⟩

theorem cls : Statement .cls := fun _ => rfl
theorem ret : Statement .ret := fun _ => rfl
theorem jp (addr : Word) : Statement (.jp addr) := fun h => nnn_row 1 addr (by decide) h
theorem call (addr : Word) : Statement (.call addr) := fun h => nnn_row 2 addr (by decide) h
theorem ldI (addr : Word) : Statement (.ldI addr) := fun h => nnn_row 10 addr (by decide) h
theorem jpV0 (addr : Word) : Statement (.jpV0 addr) := fun h => nnn_row 11 addr (by decide) h
theorem seByte (x : Reg) (kk : Byte) : Statement (.seByte x kk) := fun _ => xkk_row 3 x kk (by decide)
theorem sneByte (x : Reg) (kk : Byte) : Statement (.sneByte x kk) := fun _ => xkk_row 4 x kk (by decide)
theorem ldByte (x : Reg) (kk : Byte) : Statement (.ldByte x kk) := fun _ => xkk_row 6 x kk (by decide)
theorem addByte (x : Reg) (kk : Byte) : Statement (.addByte x kk) := fun _ => xkk_row 7 x kk (by decide)
theorem rnd (x : Reg) (kk : Byte) : Statement (.rnd x kk) := fun _ => xkk_row 12 x kk (by decide)
theorem seReg (x y : Reg) : Statement (.seReg x y) := fun _ => xyn_row 5 x y 0 (by decide) (by decide)
theorem ldReg (x y : Reg) : Statement (.ldReg x y) := fun _ => xyn_row 8 x y 0 (by decide) (by decide)
theorem orReg (x y : Reg) : Statement (.orReg x y) := fun _ => xyn_row 8 x y 1 (by decide) (by decide)
theorem andReg (x y : Reg) : Statement (.andReg x y) := fun _ => xyn_row 8 x y 2 (by decide) (by decide)
theorem xorReg (x y : Reg) : Statement (.xorReg x y) := fun _ => xyn_row 8 x y 3 (by decide) (by decide)
theorem addReg (x y : Reg) : Statement (.addReg x y) := fun _ => xyn_row 8 x y 4 (by decide) (by decide)
theorem subReg (x y : Reg) : Statement (.subReg x y) := fun _ => xyn_row 8 x y 5 (by decide) (by decide)
theorem shr (x y : Reg) : Statement (.shr x y) := fun _ => xyn_row 8 x y 6 (by decide) (by decide)
theorem subnReg (x y : Reg) : Statement (.subnReg x y) := fun _ => xyn_row 8 x y 7 (by decide) (by decide)
theorem shl (x y : Reg) : Statement (.shl x y) := fun _ => xyn_row 8 x y 14 (by decide) (by decide)
theorem sneReg (x y : Reg) : Statement (.sneReg x y) := fun _ => xyn_row 9 x y 0 (by decide) (by decide)
theorem drw (x y : Reg) (n : Nat) : Statement (.drw x y n) := fun h =>
  (matchesWord_op _ 13 (by decide)).2 (fields_packXyn 13 x y n (by decide) (of_decide_eq_true h)).1
theorem skp (x : Reg) : Statement (.skp x) := fun _ => sub_row 14 x 0x9E (by decide)
theorem sknp (x : Reg) : Statement (.sknp x) := fun _ => sub_row 14 x 0xA1 (by decide)
theorem ldVxDt (x : Reg) : Statement (.ldVxDt x) := fun _ => sub_row 15 x 0x07 (by decide)
theorem ldVxK (x : Reg) : Statement (.ldVxK x) := fun _ => sub_row 15 x 0x0A (by decide)
theorem ldDtVx (x : Reg) : Statement (.ldDtVx x) := fun _ => sub_row 15 x 0x15 (by decide)
theorem ldStVx (x : Reg) : Statement (.ldStVx x) := fun _ => sub_row 15 x 0x18 (by decide)
theorem addI (x : Reg) : Statement (.addI x) := fun _ => sub_row 15 x 0x1E (by decide)
theorem ldF (x : Reg) : Statement (.ldF x) := fun _ => sub_row 15 x 0x29 (by decide)
theorem ldB (x : Reg) : Statement (.ldB x) := fun _ => sub_row 15 x 0x33 (by decide)
theorem ldStore (x : Reg) : Statement (.ldStore x) := fun _ => sub_row 15 x 0x55 (by decide)
theorem ldLoad (x : Reg) : Statement (.ldLoad x) := fun _ => sub_row 15 x 0x65 (by decide)

end Sys2Proof.Laws.MatchesRow
end

