-- ==== Sys2Proof/Laws/Screen.lean ====
section
/-! SUPPORT. The framebuffer: one pixel after a flip, the pixel loop of a draw, and which indices a sprite addresses. -/

namespace Sys2Proof.Machine

/-- A flip inverts its own pixel and leaves every other alone (R93). -/
theorem pixelOf_flipPixel (fb : Framebuffer) (p q : Nat) (h : p < fbSize) :
    pixelOf (flipPixel fb p) q = (pixelOf fb q ^^ decide (q = p)) := by
  have hr : p / 64 < 32 := by unfold fbSize at h; omega
  simp only [pixelOf, flipPixel, Vector.getElem?_setIfInBounds]
  by_cases hrow : p / 64 = q / 64
  · rw [if_pos hrow, if_pos hr, ← hrow]
    simp only [Option.getD_some, BitVec.getLsbD_xor, BitVec.getLsbD_twoPow]
    have hq : q % 64 < 64 := Nat.mod_lt _ (by omega)
    have hp : p % 64 < 64 := Nat.mod_lt _ (by omega)
    by_cases e : q = p
    · subst e; simp [hp]
    · have : p % 64 ≠ q % 64 := by omega
      simp [e, this]
  · rw [if_neg hrow]
    have : q ≠ p := by rintro rfl; exact hrow rfl
    simp [this]

/-- Two framebuffers with the same pixels are the same. -/
theorem framebuffer_ext (f g : Framebuffer) (h : ∀ p, pixelOf f p = pixelOf g p) : f = g := by
  apply Vector.ext
  intro r hr
  apply BitVec.eq_of_getLsbD_eq
  intro c hc
  have := h (r * 64 + c)
  simpa [pixelOf, show (r * 64 + c) / 64 = r by omega, show (r * 64 + c) % 64 = c by omega,
    hr] using this

/-- A cleared framebuffer has every pixel 0 (R59). -/
theorem pixelOf_clearedFb (p : Nat) : pixelOf clearedFb p = false := by
  simp only [pixelOf, clearedFb, Vector.getElem?_replicate]
  split <;> simp

/-- The pixel loop over distinct indices flips exactly those. -/
theorem pixelOf_blit (fb : Framebuffer) (hit : Bool) (ps : List Nat) (q : Nat) (hd : ps.Nodup)
    (hf : ∀ p ∈ ps, p < fbSize) : pixelOf (blit fb hit ps).1 q = (pixelOf fb q ^^ decide (q ∈ ps)) := by
  induction ps generalizing fb hit with
  | nil => simp [blit]
  | cons p rest ih =>
    rw [List.nodup_cons] at hd
    rw [blit, ih _ _ hd.2 (fun r hr => hf r (by simp [hr])), pixelOf_flipPixel _ _ _ (hf p (by simp))]
    by_cases e : q = p
    · subst e; simp [hd.1]
    · simp [e]

/-- The pixel loop over distinct indices notes a collision exactly when it flips a set pixel. -/
theorem blit_hit (fb : Framebuffer) (hit : Bool) (ps : List Nat) (hd : ps.Nodup) (hf : ∀ p ∈ ps, p < fbSize) :
    (blit fb hit ps).2 = true ↔ hit = true ∨ ∃ p ∈ ps, pixelOf fb p = true := by
  induction ps generalizing fb hit with
  | nil => simp [blit]
  | cons p rest ih =>
    rw [List.nodup_cons] at hd
    rw [blit, ih _ _ hd.2 (fun r hr => hf r (by simp [hr]))]
    have hp := hf p (by simp)
    have : ∀ q ∈ rest, pixelOf (flipPixel fb p) q = pixelOf fb q := fun q hq => by
      rw [pixelOf_flipPixel _ _ _ hp]
      have : q ≠ p := by rintro rfl; exact hd.1 hq
      simp [this]
    simp only [Bool.or_eq_true, List.mem_cons, exists_eq_or_imp]
    constructor
    · rintro ((h | h) | ⟨q, hq, h⟩)
      · exact .inl h
      · exact .inr (.inl h)
      · exact .inr (.inr ⟨q, hq, by rw [← this q hq]; exact h⟩)
    · rintro (h | h | ⟨q, hq, h⟩)
      · exact .inl (.inl h)
      · exact .inl (.inr h)
      · exact .inr ⟨q, hq, by rw [this q hq]; exact h⟩

theorem mem_spriteColumns (b : Byte) (col : Nat) : col ∈ spriteColumns b ↔ col < 8 ∧ b.getLsbD (7 - col) = true := by
  simp [spriteColumns]

/-- The indices a sprite addresses are those of its set bits (R91). -/
theorem mem_spritePixels (cx cy p : Nat) (bytes : List Byte) :
    p ∈ spritePixels cx cy bytes ↔
      ∃ row, row < bytes.length ∧ ∃ col, col < 8 ∧ (bytes.getD row 0).getLsbD (7 - col) = true ∧
        p = (cy + row) * 64 + (cx + col) := by
  induction bytes generalizing cy with
  | nil => simp [spritePixels]
  | cons b rest ih =>
    simp only [spritePixels, List.mem_append, List.mem_map, mem_spriteColumns, ih, List.length_cons]
    constructor
    · rintro (⟨col, ⟨hc, hb⟩, rfl⟩ | ⟨row, hr, col, hc, hb, rfl⟩)
      · exact ⟨0, by omega, col, hc, by simpa using hb, by simp⟩
      · exact ⟨row + 1, by omega, col, hc, by simpa using hb, by rw [Nat.add_right_comm, Nat.add_assoc]⟩
    · rintro ⟨row, hr, col, hc, hb, rfl⟩
      cases row with
      | zero => exact .inl ⟨col, ⟨hc, by simpa using hb⟩, by simp⟩
      | succ row => exact .inr ⟨row, by omega, col, hc, by simpa using hb, by rw [Nat.add_right_comm cy 1, Nat.add_assoc cy]⟩

end Sys2Proof.Machine
end

