-- ==== Sys2Proof/Laws/Sprite.lean ====
section
/-! SUPPORT. The pixels a draw walks, as the set bits of its sprite; and which operations of an instruction do not see
one another. -/

namespace Sys2Proof.Machine

/-- The indices a draw walks are those its set sprite bits address (R91, R93). -/
theorem mem_drawnPixels (s : State) (x y : Reg) (n p : Nat) : p ∈ s.drawnPixels x y n ↔ SpriteSets s x y n p := by
  rw [State.drawnPixels, mem_spritePixels, readAtI_length]
  constructor
  · rintro ⟨row, hr, col, hc, hb, hp⟩
    exact ⟨row, hr, col, hc, by rw [← readAtI_getD s n row hr]; exact hb, hp⟩
  · rintro ⟨row, hr, col, hc, hb, hp⟩
    exact ⟨row, hr, col, hc, by rw [readAtI_getD s n row hr]; exact hb, hp⟩

/-- The check of R92 says that every addressed index is in the framebuffer. -/
theorem pixelsFit_iff (ps : List Nat) : pixelsFit ps = true ↔ ∀ p ∈ ps, p ≤ 2047 := by
  simp only [pixelsFit, List.all_eq_true, decide_eq_true_eq]
  exact forall₂_congr fun _ _ => Nat.lt_succ_iff

variable (s : State)

@[simp] theorem reachable_setV (r : Reg) (b : Byte) (n : Nat) : (s.setV r b).reachable n = s.reachable n := rfl
@[simp] theorem readAtI_setV (r : Reg) (b : Byte) (n : Nat) : (s.setV r b).readAtI n = s.readAtI n := rfl
@[simp] theorem fetchWord_setV (r : Reg) (b : Byte) : (s.setV r b).fetchWord = s.fetchWord := rfl
@[simp] theorem randomWord_setV (r : Reg) (b : Byte) : (s.setV r b).randomWord = s.randomWord := rfl
@[simp] theorem lastPressed_setV (r : Reg) (b : Byte) (n : Nat) : (s.setV r b).lastPressed n = s.lastPressed n := by
  induction n with
  | zero => rfl
  | succ n ih => simp only [State.lastPressed, ih]; rfl
@[simp] theorem reachable_advance (n : Nat) : s.advance.reachable n = s.reachable n := rfl
@[simp] theorem readAtI_advance (n : Nat) : s.advance.readAtI n = s.readAtI n := rfl
@[simp] theorem regBlock_advance (n : Nat) : s.advance.regBlock n = s.regBlock n := rfl
@[simp] theorem drawnPixels_advance (x y : Reg) (n : Nat) : s.advance.drawnPixels x y n = s.drawnPixels x y n := rfl
@[simp] theorem fetchWord_tick : s.tick.fetchWord = s.fetchWord := rfl

end Sys2Proof.Machine
end

