-- ==== Sys2Proof/Laws/Step.lean ====
section
/-! SUPPORT. What the fetch, the fault entry, an instruction and a step can do, said once. -/

namespace Sys2Proof.Machine

/-! ## Fetch -/

theorem fetchable_iff (s : State) : s.fetchable = true ↔ 0x200 ≤ s.pc.toNat ∧ s.pc.toNat ≤ 0xFFE := by
  simp [State.fetchable]

/-- A fetch outside 0x200..0xFFE fails first (R108). -/
theorem fetchInstr_out_of_range (s : State) (h : ¬ (0x200 ≤ s.pc.toNat ∧ s.pc.toNat ≤ 0xFFE)) :
    s.fetchInstr = .error .fetchRange := by
  rw [← fetchable_iff] at h
  simp [State.fetchInstr, h]

/-- The fetch of a word that decodes gives its instruction (R46). -/
theorem fetchInstr_known (s : State) (i : Instr) (h : 0x200 ≤ s.pc.toNat ∧ s.pc.toNat ≤ 0xFFE)
    (hd : decode s.fetchWord = .known i) : s.fetchInstr = .ok i := by
  rw [← fetchable_iff] at h
  simp [State.fetchInstr, h, hd]

/-- The fetch of a word that matches no row fails as an unknown opcode (R55). -/
theorem fetchInstr_unknown (s : State) (h : 0x200 ≤ s.pc.toNat ∧ s.pc.toNat ≤ 0xFFE)
    (hd : decode s.fetchWord = .unknown) : s.fetchInstr = .error .unknownOpcode := by
  rw [← fetchable_iff] at h
  simp [State.fetchInstr, h, hd]

/-- A fetch that gives an instruction was in range, and its word decodes to that instruction. -/
theorem fetchInstr_ok (s : State) (i : Instr) (h : s.fetchInstr = .ok i) :
    (0x200 ≤ s.pc.toNat ∧ s.pc.toNat ≤ 0xFFE) ∧ decode s.fetchWord = .known i := by
  unfold State.fetchInstr at h
  split at h
  · rename_i hf
    refine ⟨(fetchable_iff s).1 hf, ?_⟩
    split at h
    · rename_i j hj; cases h; exact hj
    · cases h
  · cases h

/-! ## Faults -/

theorem raiseFault_eq (reason : FaultReason) (s : State) : raiseFault reason s = .next (s.enterFault reason) := rfl

/-- A fault entry leaves the word at pc and so its own record's opcode as they were (R106). -/
@[simp] theorem fetchWord_enterFault (s : State) (reason : FaultReason) :
    (s.enterFault reason).fetchWord = s.fetchWord := rfl

@[simp] theorem faultOpcode_enterFault (s : State) (reason reason' : FaultReason) :
    (s.enterFault reason).faultOpcode reason' = s.faultOpcode reason' := rfl

/-- The fault entry in full (R106). -/
theorem enterFault_faultedFrom (s : State) (reason : FaultReason) : FaultedFrom reason s (s.enterFault reason) := rfl

/-! ## The two outcomes of an instruction -/

/-- What a meaning can do to the run status: answer with its own effect, leaving the status alone, or enter a fault. -/
abbrev RunsOrFaults (s : State) (o : Host.Outcome State Fault Refusal) : Prop :=
  (∃ t, o = .next t ∧ SameStatus s t) ∨ (∃ reason, o = .next (s.enterFault reason) ∧ reason ≠ .fetchRange)

theorem RunsOrFaults.of_next (s t : State) (h : SameStatus s t) : RunsOrFaults s (.next t) := .inl ⟨t, rfl, h⟩

theorem RunsOrFaults.of_fault (s : State) (reason : FaultReason) (h : reason ≠ .fetchRange) :
    RunsOrFaults s (raiseFault reason s) := .inr ⟨reason, rfl, h⟩

/-- A load of registers leaves the run status alone. -/
theorem loadRegs_status (s : State) (bytes : List Byte) (n : Nat) : SameStatus s (s.loadRegs bytes n) := by
  rw [loadRegs_eq]; exact ⟨rfl, rfl, rfl⟩

/-- Every instruction either has its own effect or enters a fault with its state otherwise untouched (R47, R106). -/
theorem exec_runs_or_faults (i : Instr) (s : State) : RunsOrFaults s (exec i s) := by
  cases i with
  | ret =>
    simp only [exec, execRet]
    by_cases h : s.sp.val = 0
    · rw [pop_empty s.advance h]; exact .of_fault _ _ (by decide)
    · obtain ⟨t, ht, he, -⟩ := pop_spec s.advance (by rw [advance_sp]; omega)
      rw [ht]; refine .of_next _ _ ?_; dsimp only [SameStatus, setPc_halted, setPc_fault, setPc_beep]; rw [he]; exact ⟨rfl, rfl, rfl⟩
  | call addr =>
    simp only [exec, execCall]
    by_cases h : s.sp.val = 15
    · rw [push_full s.advance _ h]; exact .of_fault _ _ (by decide)
    · obtain ⟨t, ht, he, -⟩ := push_spec s.advance s.advance.pc (by have := s.sp.isLt; rw [advance_sp]; omega)
      rw [ht]; refine .of_next _ _ ?_; dsimp only [SameStatus, setPc_halted, setPc_fault, setPc_beep]; rw [he]; exact ⟨rfl, rfl, rfl⟩
  | drw x y n =>
    simp only [exec, execDrw]
    split
    · split
      · exact .of_next _ _ ⟨rfl, rfl, rfl⟩
      · exact .of_fault _ _ (by decide)
    · exact .of_fault _ _ (by decide)
  | ldB x | ldStore x =>
    simp only [exec, execLdB, execLdStore]
    split
    · exact .of_next _ _ ⟨rfl, rfl, rfl⟩
    · exact .of_fault _ _ (by decide)
  | ldLoad x =>
    simp only [exec, execLdLoad]
    split
    · exact .of_next _ _ (loadRegs_status _ _ _)
    · exact .of_fault _ _ (by decide)
  | skp x | sknp x =>
    simp only [exec, execSkp, execSknp]
    split
    · exact .of_fault _ _ (by decide)
    · refine .of_next _ _ ?_; simp [SameStatus]
  | ldVxK x =>
    simp only [exec, execLdVxK]
    split <;> exact .of_next _ _ ⟨rfl, rfl, rfl⟩
  | rnd x kk => refine .of_next _ _ ?_; simp [SameStatus]
  | seByte x kk | sneByte x kk | seReg x y | sneReg x y => refine .of_next _ _ ?_; simp [SameStatus]
  | cls | jp addr | jpV0 addr | ldByte x kk | addByte x kk | ldReg x y | orReg x y | andReg x y | xorReg x y
  | addReg x y | subReg x y | shr x y | subnReg x y | shl x y | ldI addr | ldVxDt x | ldDtVx x | ldStVx x | addI x
  | ldF x => exact .of_next _ _ ⟨rfl, rfl, rfl⟩

/-! ## The step -/

theorem endCycle_running (s : State) (h : s.halted = false) : s.endCycle = s.tick := by simp [State.endCycle, h]

theorem endCycle_halted (s : State) (h : s.halted = true) : s.endCycle = s := by simp [State.endCycle, h]

theorem step_halted (s : State) (h : s.halted = true) : step s = .next s.idleCycle := by simp [step, h]

/-- Everything a step can do: idle while halted, fail at the fetch, fault in the instruction with the state otherwise
untouched and no tick, or run the instruction and tick. -/
theorem step_cases (s t : State) (h : step s = .next t) :
    (s.halted = true ∧ t = s.idleCycle) ∨
    (s.halted = false ∧ ∃ reason, s.fetchInstr = .error reason ∧ t = s.enterFault reason) ∨
    (s.halted = false ∧ ∃ i reason, s.fetchInstr = .ok i ∧ exec i s = .next (s.enterFault reason) ∧
      reason ≠ .fetchRange ∧ t = s.enterFault reason) ∨
    (s.halted = false ∧ ∃ i u, s.fetchInstr = .ok i ∧ exec i s = .next u ∧ SameStatus s u ∧ t = u.tick) := by
  unfold step at h
  cases hh : s.halted with
  | true => simp only [hh, if_true, Host.Outcome.next.injEq] at h; exact .inl ⟨rfl, h.symm⟩
  | false =>
    simp only [hh, Bool.false_eq_true, if_false] at h
    cases hf : s.fetchInstr with
    | error reason =>
      simp only [hf, raiseFault, Host.Outcome.next.injEq] at h
      exact .inr (.inl ⟨rfl, reason, rfl, h.symm⟩)
    | ok i =>
      simp only [hf] at h
      rcases exec_runs_or_faults i s with ⟨u, he, hs⟩ | ⟨reason, he, hr⟩
      · rw [he] at h
        simp only [finishCycle, Host.Outcome.next.injEq] at h
        rw [endCycle_running _ (hs.1.trans hh)] at h
        exact .inr (.inr (.inr ⟨rfl, i, u, rfl, he, hs, h.symm⟩))
      · rw [he] at h
        simp only [finishCycle, Host.Outcome.next.injEq] at h
        rw [endCycle_halted _ rfl] at h
        exact .inr (.inr (.inl ⟨rfl, i, reason, rfl, he, hr, h.symm⟩))

/-! ## RESET -/

/-- The memory RESET leaves, byte by byte (R29, R119). -/
theorem read_built (p : Params) (rom : List Byte) (seed : Word32) (h : rom.length ≤ romMax) (a : Nat) :
    (State.built p rom seed).readMem a =
      if 0x200 ≤ a ∧ a < 0x200 + rom.length then rom.getD (a - 0x200) 0
      else if a < 80 then p.font.toList.getD a 0 else Memory.base a := by
  have hf : p.font.toList.length = 80 := by simp
  show Memory.read (Memory.writeRange _ _ _) a = _
  rw [read_writeRange _ _ _ _ (by unfold romMax at h; unfold memSize; omega),
    read_writeRange _ _ _ _ (by rw [hf]; unfold memSize; omega), hf]
  simp [Memory.read]

/-- Above the font an unlisted address reads as zero (R29). -/
theorem base_above (a : Nat) (h : 80 ≤ a) : Memory.base a = 0 := by
  have hl : fontTable.length = 80 := by decide
  rw [Memory.base, List.getD_eq_getElem?_getD, List.getElem?_eq_none (by omega)]; rfl

theorem built_memOk (p : Params) (rom : List Byte) (seed : Word32) : (State.built p rom seed).MemOk :=
  writeRange_wf _ _ _ (writeRange_wf _ _ _ (by decide))

end Sys2Proof.Machine
end

