-- ==== Sys2Proof/Tests/Slice0.lean ====
section
/-! SUPPORT. Tests of one step each, with expected results from the spec (the vectors of spec file 95_test_vectors.md
and the examples of the rules), and for every statement with hypotheses a witness that meets them. -/

namespace Sys2Proof.Tests

open Sys2Proof Sys2Proof.Machine

/-! ## Helpers -/

/-- The start of the vectors: the state after reset, with seed 1. -/
def start : State := { State.reset with rng := 1 }

/-- `start` with registers set. -/
def withV (rs : List (Reg × Byte)) : State := rs.foldl (fun s r => s.setV r.1 r.2) start

/-- A state with bytes in memory. -/
def poke (s : State) (a : Nat) (bytes : List Byte) : State := { s with mem := s.mem.writeRange a bytes }

/-- One cycle on the word `w` placed at pc answers a next state with the property. -/
def cycleOn (s : State) (w : Nat) (good : State → Bool) : Bool :=
  match step (s.withFetchWord 16 w) with
  | .next t => good t
  | .fault _ => false
  | .refused _ => false

/-- One cycle on the word `w` halts with the reason, the pc and the word in the record, and leaves pc. -/
def faultsOn (s : State) (w : Nat) (reason : FaultReason) : Bool :=
  cycleOn s w (fun t => t.halted && t.fault == some ⟨reason, s.pc, some (BitVec.ofNat 16 w)⟩ && t.pc == s.pc)

/-- The answer of an instruction, where it is a next state. -/
def nextOf (o : Host.Outcome State Fault Refusal) : Option State :=
  match o with
  | .next t => some t
  | .fault _ => none
  | .refused _ => none

/-! ## Well-formedness: an ill-formed term for each check -/

theorem test_wellFormed_refuses_wide_jp : (Instr.jp 0x1000).wellFormed = false := by decide
theorem test_wellFormed_refuses_wide_call : (Instr.call 0x1000).wellFormed = false := by decide
theorem test_wellFormed_refuses_wide_ldI : (Instr.ldI 0x1000).wellFormed = false := by decide
theorem test_wellFormed_refuses_wide_jpV0 : (Instr.jpV0 0xFFFF).wellFormed = false := by decide
theorem test_wellFormed_refuses_tall_drw : (Instr.drw 0 0 16).wellFormed = false := by decide
theorem test_wellFormed_admits_the_bounds : (Instr.jp 0xFFF).wellFormed && (Instr.drw 15 15 15).wellFormed = true := by
  decide

/-! ## Decoding: a word written out from the pattern of each constructor (R52) -/

theorem test_decode_cls : decode 0x00E0 = .known .cls := by decide
theorem test_decode_ret : decode 0x00EE = .known .ret := by decide
theorem test_decode_jp : decode 0x1234 = .known (.jp 0x234) := by decide
theorem test_decode_call : decode 0x2ABC = .known (.call 0xABC) := by decide
theorem test_decode_seByte : decode 0x3310 = .known (.seByte 3 0x10) := by decide
theorem test_decode_sneByte : decode 0x4A5F = .known (.sneByte 10 0x5F) := by decide
theorem test_decode_seReg : decode 0x5120 = .known (.seReg 1 2) := by decide
theorem test_decode_ldByte : decode 0x6A05 = .known (.ldByte 10 5) := by decide
theorem test_decode_addByte : decode 0x7202 = .known (.addByte 2 2) := by decide
theorem test_decode_ldReg : decode 0x8CF0 = .known (.ldReg 12 15) := by decide
theorem test_decode_orReg : decode 0x8AB1 = .known (.orReg 10 11) := by decide
theorem test_decode_andReg : decode 0x8122 = .known (.andReg 1 2) := by decide
theorem test_decode_xorReg : decode 0x8343 = .known (.xorReg 3 4) := by decide
theorem test_decode_addReg : decode 0x8AB4 = .known (.addReg 10 11) := by decide
theorem test_decode_subReg : decode 0x8AB5 = .known (.subReg 10 11) := by decide
theorem test_decode_shr : decode 0x80F6 = .known (.shr 0 15) := by decide
theorem test_decode_subnReg : decode 0x8017 = .known (.subnReg 0 1) := by decide
theorem test_decode_shl : decode 0x830E = .known (.shl 3 0) := by decide
theorem test_decode_sneReg : decode 0x9120 = .known (.sneReg 1 2) := by decide
theorem test_decode_ldI : decode 0xA300 = .known (.ldI 0x300) := by decide
theorem test_decode_jpV0 : decode 0xB1FC = .known (.jpV0 0x1FC) := by decide
theorem test_decode_rnd : decode 0xC40F = .known (.rnd 4 0x0F) := by decide
theorem test_decode_drw : decode 0xD345 = .known (.drw 3 4 5) := by decide
theorem test_decode_skp : decode 0xE29E = .known (.skp 2) := by decide
theorem test_decode_sknp : decode 0xE5A1 = .known (.sknp 5) := by decide
theorem test_decode_ldVxDt : decode 0xF307 = .known (.ldVxDt 3) := by decide
theorem test_decode_ldVxK : decode 0xF20A = .known (.ldVxK 2) := by decide
theorem test_decode_ldDtVx : decode 0xF415 = .known (.ldDtVx 4) := by decide
theorem test_decode_ldStVx : decode 0xF618 = .known (.ldStVx 6) := by decide
theorem test_decode_addI : decode 0xFE1E = .known (.addI 14) := by decide
theorem test_decode_ldF : decode 0xFA29 = .known (.ldF 10) := by decide
theorem test_decode_ldB : decode 0xF033 = .known (.ldB 0) := by decide
theorem test_decode_ldStore : decode 0xF355 = .known (.ldStore 3) := by decide
theorem test_decode_ldLoad : decode 0xFF65 = .known (.ldLoad 15) := by decide

/-- Vectors E6 and E7: words of family 0 that match no instruction. -/
theorem test_decode_unknown_family0 :
    decode 0x0000 = .unknown ∧ decode 0x0123 = .unknown ∧ decode 0x00E1 = .unknown ∧ decode 0x00FF = .unknown := by decide
/-- Vector E8: words of families 5, 8 and 9. -/
theorem test_decode_unknown_sub :
    decode 0x5121 = .unknown ∧ decode 0x800F = .unknown ∧ decode 0x8008 = .unknown ∧ decode 0x912F = .unknown := by decide
/-- Vector E9: words of families E and F. -/
theorem test_decode_unknown_EF :
    decode 0xE000 = .unknown ∧ decode 0xE09F = .unknown ∧ decode 0xF000 = .unknown ∧ decode 0xF030 = .unknown ∧
    decode 0xF075 = .unknown ∧ decode 0xFFFF = .unknown := by decide

theorem test_encode_drw : encode (.drw 3 4 5) = 0xD345 := by decide
theorem test_encode_ldStore : encode (.ldStore 3) = 0xF355 := by decide

/-! ## Fetch, tick and faults (95_test_vectors.md 2.1) -/

/-- E1, R61: the word at pc is big-endian. -/
theorem test_fetch_big_endian : (poke start 0x200 [0x12, 0x34]).fetchWord = 0x1234 := by decide

/-- E2: a fetch below 0x200. -/
theorem test_fetch_below : cycleOn { start with pc := 0x1FE } 0x6000
    (fun t => t.halted && t.fault == some ⟨.fetchRange, 0x1FE, none⟩) = true := by decide

/-- E4: the last legal fetch. -/
theorem test_fetch_last_word : cycleOn { start with pc := 0xFFE } 0x1200 (fun t => !t.halted && t.pc == 0x200) = true := by
  decide

/-- E5: an odd pc. -/
theorem test_fetch_odd : cycleOn { start with pc := 0x201 } 0x6007 (fun t => t.getV 0 == 7 && t.pc == 0x203) = true := by
  decide

/-- E10: no tick after a fault. -/
theorem test_fault_no_tick : faultsOn { start with dt := 5, st := 3 } 0x0000 .unknownOpcode &&
    cycleOn { start with dt := 5, st := 3 } 0x0000 (fun t => t.dt == 5 && t.st == 3 && !t.beep) = true := by decide

/-- E11: a halted CORE does nothing. -/
theorem test_halted_idle : cycleOn { start with halted := true, dt := 5 } 0x6001
    (fun t => t.dt == 5 && t.getV 0 == 0 && t.pc == 0x200 && t.halted) = true := by decide

/-- T8: the tick that takes ST to 0 beeps. -/
theorem test_tick_beeps : cycleOn { start with st := 1 } 0x6000 (fun t => t.st == 0 && t.beep) = true := by decide

/-- T9, T10: a tick that does not. -/
theorem test_tick_counts : cycleOn { start with st := 2, dt := 0xFF } 0x6000
    (fun t => t.st == 1 && t.dt == 0xFE && !t.beep) = true := by decide

/-! ## Control flow (2.2) -/

/-- C1, W9 -/
theorem test_cls : cycleOn { start with fb := Vector.replicate 32 (-1) } 0x00E0
    (fun t => t.fb == Vector.replicate 32 0 && t.draw && t.pc == 0x202) = true := by decide
/-- C3 -/
theorem test_ret_underflow : faultsOn start 0x00EE .stackUnderflow = true := by decide
/-- C4 -/
theorem test_ret : cycleOn { start with sp := 2, stack := (start.stack.set 0 0x300).set 1 0x40A } 0x00EE
    (fun t => t.sp == 1 && t.pc == 0x40A && t.stackAt 1 == 0x40A) = true := by decide
/-- C8 -/
theorem test_call_last : cycleOn { start with sp := 14 } 0x2300
    (fun t => t.stackAt 14 == 0x202 && t.sp == 15 && t.pc == 0x300) = true := by decide
/-- C9 -/
theorem test_call_overflow : faultsOn { start with sp := 15 } 0x2300 .stackOverflow = true := by decide
/-- C5 -/
theorem test_jp : cycleOn start 0x1FFF (fun t => t.pc == 0xFFF && !t.halted) = true := by decide
/-- C11: no wrap. -/
theorem test_jpV0 : cycleOn (withV [(0, 0xFF), (15, 1)]) 0xBFFF (fun t => t.pc == 0x10FE) = true := by decide
/-- C13, C14 -/
theorem test_seByte : cycleOn (withV [(3, 0x10)]) 0x3310 (fun t => t.pc == 0x204) &&
    cycleOn (withV [(3, 0x11)]) 0x3310 (fun t => t.pc == 0x202) = true := by decide
/-- C23: a skip past the last word. -/
theorem test_seByte_past_end : cycleOn { start with pc := 0xFFC } 0x3000 (fun t => t.pc == 0x1000) = true := by decide
/-- C17 and the example of R65. -/
theorem test_sneByte : cycleOn (withV [(3, 0x10)]) 0x4311 (fun t => t.pc == 0x204) &&
    cycleOn (withV [(3, 0x10)]) 0x4310 (fun t => t.pc == 0x202) = true := by decide
/-- C18, C19 -/
theorem test_seReg : cycleOn (withV [(1, 7), (2, 7)]) 0x5120 (fun t => t.pc == 0x204) &&
    cycleOn (withV [(5, 9)]) 0x5550 (fun t => t.pc == 0x204) = true := by decide
/-- C20, C21 -/
theorem test_sneReg : cycleOn (withV [(1, 7), (2, 8)]) 0x9120 (fun t => t.pc == 0x204) &&
    cycleOn (withV [(5, 9)]) 0x9550 (fun t => t.pc == 0x202) = true := by decide

/-! ## Register and immediate (2.3) -/

/-- R1 -/
theorem test_ldByte : cycleOn start 0x6A05 (fun t => t.getV 10 == 5 && t.pc == 0x202) = true := by decide
/-- R3: no carry flag. -/
theorem test_addByte : cycleOn (withV [(2, 0xFF)]) 0x7202 (fun t => t.getV 2 == 1 && t.getV 15 == 0) = true := by decide
/-- R6 -/
theorem test_ldReg : cycleOn (withV [(1, 0x42)]) 0x8010 (fun t => t.getV 0 == 0x42 && t.getV 1 == 0x42) = true := by
  decide
/-- R12: OR into VF. -/
theorem test_orReg : cycleOn (withV [(15, 1), (1, 0x80)]) 0x8F11 (fun t => t.getV 15 == 0x81) = true := by decide
/-- R8 -/
theorem test_andReg : cycleOn (withV [(0, 0x3C), (1, 0x0F)]) 0x8012 (fun t => t.getV 0 == 0x0C) = true := by decide
/-- R9, R10 -/
theorem test_xorReg : cycleOn (withV [(0, 0xFF), (1, 0x0F)]) 0x8013 (fun t => t.getV 0 == 0xF0) &&
    cycleOn (withV [(5, 0x5A)]) 0x8553 (fun t => t.getV 5 == 0) = true := by decide

/-! ## Arithmetic with flags (2.4) -/

/-- A2 and A1: sums 255 and 256. -/
theorem test_addReg : cycleOn (withV [(0, 0xFE), (1, 1)]) 0x8014 (fun t => t.getV 0 == 0xFF && t.getV 15 == 0) &&
    cycleOn (withV [(0, 0xFF), (1, 1)]) 0x8014 (fun t => t.getV 0 == 0 && t.getV 15 == 1) = true := by decide
/-- A4 and A6: VF as destination and as addend. -/
theorem test_addReg_vf : cycleOn (withV [(0, 1), (15, 0xFF)]) 0x8F04 (fun t => t.getV 15 == 1) &&
    cycleOn (withV [(0, 1), (15, 1)]) 0x80F4 (fun t => t.getV 0 == 2 && t.getV 15 == 0) = true := by decide
/-- A8 and A9: a strict test, and a wrap. -/
theorem test_subReg : cycleOn (withV [(0, 3), (1, 3)]) 0x8015 (fun t => t.getV 0 == 0 && t.getV 15 == 0) &&
    cycleOn (withV [(0, 1), (1, 2)]) 0x8015 (fun t => t.getV 0 == 0xFF && t.getV 15 == 0) = true := by decide
/-- A11 and A12 -/
theorem test_subReg_vf : cycleOn (withV [(15, 5), (0, 3)]) 0x8F05 (fun t => t.getV 15 == 1) &&
    cycleOn (withV [(0, 5), (15, 3)]) 0x80F5 (fun t => t.getV 0 == 2 && t.getV 15 == 1) = true := by decide
/-- A14 and A15 -/
theorem test_subnReg : cycleOn (withV [(0, 3), (1, 5)]) 0x8017 (fun t => t.getV 0 == 2 && t.getV 15 == 1) &&
    cycleOn (withV [(0, 5), (1, 3)]) 0x8017 (fun t => t.getV 0 == 0xFE && t.getV 15 == 0) = true := by decide
/-- A21: Vy is not read. -/
theorem test_shr : cycleOn (withV [(1, 0xFF)]) 0x8106 (fun t => t.getV 1 == 0x7F && t.getV 15 == 1) = true := by decide
/-- A22: the old bit 0 in VF. -/
theorem test_shr_vf : cycleOn (withV [(15, 3)]) 0x8F06 (fun t => t.getV 15 == 1) = true := by decide
/-- A23 and A25 -/
theorem test_shl : cycleOn (withV [(3, 0x81)]) 0x830E (fun t => t.getV 3 == 2 && t.getV 15 == 1) &&
    cycleOn (withV [(3, 0x7F)]) 0x830E (fun t => t.getV 3 == 0xFE && t.getV 15 == 0) = true := by decide
/-- A27: the old bit 7 in VF. -/
theorem test_shl_vf : cycleOn (withV [(15, 0x40)]) 0x8F0E (fun t => t.getV 15 == 0) = true := by decide

/-! ## Index and memory (2.5) -/

/-- M1 -/
theorem test_ldI : cycleOn start 0xA300 (fun t => t.iReg == 0x300) = true := by decide
/-- M3 and M4 -/
theorem test_addI : cycleOn { withV [(0, 1)] with iReg := 0xFFF } 0xF01E (fun t => t.iReg == 0x1000 && t.getV 15 == 0) &&
    cycleOn { withV [(0, 1)] with iReg := 0xFFFF } 0xF01E (fun t => t.iReg == 0) = true := by decide
/-- M8: no masking. -/
theorem test_ldF : cycleOn (withV [(0, 0xFF)]) 0xF029 (fun t => t.iReg == 0x4FB) = true := by decide
/-- M9 -/
theorem test_ldB : cycleOn { withV [(0, 234)] with iReg := 0x300 } 0xF033
    (fun t => t.mem.readRange 0x300 4 == [2, 3, 4, 0] && t.iReg == 0x300) = true := by decide
/-- M14 -/
theorem test_ldB_range : faultsOn { start with iReg := 0xFFE } 0xF033 .memRange = true := by decide
/-- W5 with the corrected word. -/
theorem test_ldStore : cycleOn { withV [(0, 0x11), (1, 0x22), (2, 0x33), (3, 0x44), (4, 0x55)] with iReg := 0x300 } 0xF355
    (fun t => t.mem.readRange 0x2FF 6 == [0, 0x11, 0x22, 0x33, 0x44, 0] && t.iReg == 0x300) = true := by decide
/-- M16 -/
theorem test_ldStore_range : faultsOn { withV [(0, 9)] with iReg := 0xFFF } 0xF155 .memRange &&
    cycleOn { withV [(0, 9)] with iReg := 0xFFF } 0xF155 (fun t => t.readMem 0xFFF == 0) = true := by decide
/-- M18 -/
theorem test_ldLoad : cycleOn { poke (withV [(3, 0x77)]) 0x300 [9, 8, 7, 6] with iReg := 0x300 } 0xF265
    (fun t => t.getV 0 == 9 && t.getV 1 == 8 && t.getV 2 == 7 && t.getV 3 == 0x77 && t.iReg == 0x300) = true := by decide
/-- M20 -/
theorem test_ldLoad_range : faultsOn { start with iReg := 0xFF1 } 0xFF65 .memRange = true := by decide

/-- R34: glyphs 0, 7 and F of the font. -/
theorem test_font : State.reset.mem.readRange 0x000 5 = [0xF0, 0x90, 0x90, 0x90, 0xF0] ∧
    State.reset.mem.readRange 0x023 5 = [0xF0, 0x10, 0x20, 0x40, 0x40] ∧
    State.reset.mem.readRange 0x04B 6 = [0xF0, 0x80, 0xF0, 0x80, 0x80, 0x00] := by decide

/-- M22: the font is writable, and writing back what reset left lists nothing. -/
theorem test_font_writable : (poke start 0 [0xAA]).readMem 0 = 0xAA ∧ (poke (poke start 0 [0xAA]) 0 [0xF0]).mem = [] := by
  decide

/-! ## Random (2.6) -/

/-- N1 and N3 -/
theorem test_rnd : cycleOn start 0xC0FF (fun t => t.rng == 0x00042021 && t.getV 0 == 0x21) &&
    cycleOn start 0xC000 (fun t => t.rng == 0x00042021 && t.getV 0 == 0) = true := by decide
/-- N6: in mode DRAW the generator stays. -/
theorem test_rnd_draw : cycleOn { start with rngMode := .draw } 0xC3F0 (fun t => t.rng == 1 && t.drawCount == 1) = true := by
  decide
/-- The first step from the third seed of the table. -/
theorem test_xorshift : xorshift32 0xDEADBEEF = 0x477D20B7 := by decide

/-! ## Draw (2.7) -/

/-- W12: the pixels of glyph "0". D12: a collision. D10: no row, with I anywhere. D11: x = 15 is the old VF. -/
theorem test_drw_runs :
    cycleOn start 0xD005 (fun t => t.draw && t.getV 15 == 0 &&
      (List.range 320).filter t.pixel == [0, 1, 2, 3, 64, 67, 128, 131, 192, 195, 256, 257, 258, 259]) &&
    cycleOn { poke start 0x300 [0xC0] with iReg := 0x300, fb := start.fb.set 0 1 } 0xD001
      (fun t => !t.pixel 0 && t.pixel 1 && t.getV 15 == 1) &&
    cycleOn { withV [(15, 1)] with iReg := 0xFFFF } 0xD000 (fun t => t.fb == start.fb && t.getV 15 == 0 && t.draw) &&
    cycleOn { poke (withV [(15, 8)]) 0x300 [0x80] with iReg := 0x300 } 0xDF01
      (fun t => t.pixel 8 && !t.pixel 0 && t.getV 15 == 0) = true := by decide
/-- D5: index 2048. D8: the bytes are checked first. -/
theorem test_drw_faults :
    faultsOn { poke (withV [(0, 63), (1, 31)]) 0x300 [0xC0] with iReg := 0x300 } 0xD011 .pixelRange &&
    faultsOn { withV [(0, 63), (1, 31)] with iReg := 0xFFF } 0xD012 .memRange = true := by decide

/-! ## Input (2.8) -/

/-- K1 and K2 -/
theorem test_skp : cycleOn { withV [(5, 10)] with keys := 0x0400 } 0xE59E (fun t => t.pc == 0x204) &&
    cycleOn (withV [(5, 10)]) 0xE59E (fun t => t.pc == 0x202) = true := by decide
/-- K5 -/
theorem test_skp_range : faultsOn (withV [(0, 0x10)]) 0xE09E .keyRange = true := by decide
/-- K3 and K4 -/
theorem test_sknp : cycleOn (withV [(5, 10)]) 0xE5A1 (fun t => t.pc == 0x204) &&
    cycleOn { withV [(5, 10)] with keys := 0x0400 } 0xE5A1 (fun t => t.pc == 0x202) = true := by decide
/-- K6 -/
theorem test_sknp_range : faultsOn (withV [(0, 0xFF)]) 0xE0A1 .keyRange = true := by decide
/-- K8: the highest of two pressed keys. -/
theorem test_ldVxK : cycleOn { withV [(2, 0x77)] with keys := 0x0208 } 0xF20A (fun t => t.getV 2 == 9) = true := by decide
/-- K9: no wait. -/
theorem test_ldVxK_none : cycleOn (withV [(2, 0x77)]) 0xF20A (fun t => t.getV 2 == 0x77 && t.pc == 0x202) = true := by decide

/-! ## Timers (2.9) -/

/-- T1 -/
theorem test_ldVxDt : cycleOn { start with dt := 7 } 0xF307 (fun t => t.getV 3 == 7 && t.dt == 6) = true := by decide
/-- T3 and T4 -/
theorem test_ldDtVx : cycleOn (withV [(1, 5)]) 0xF115 (fun t => t.dt == 4) &&
    cycleOn { start with dt := 9 } 0xF115 (fun t => t.dt == 0) = true := by decide
/-- T5 and T6 -/
theorem test_ldStVx : cycleOn (withV [(1, 1)]) 0xF118 (fun t => t.st == 0 && t.beep) &&
    cycleOn { start with st := 5 } 0xF118 (fun t => t.st == 0 && !t.beep) = true := by decide

/-! ## Reset and the host -/

/-- R119, R38: a ROM is loaded verbatim at 0x200, its first byte at the lowest address. -/
theorem test_boot : (State.built Params.standard [0x6A, 0x05] 7).readMem 0x200 = 0x6A ∧
    (State.built Params.standard [0x6A, 0x05] 7).readMem 0x201 = 0x05 := by
  rw [read_built _ _ _ (by decide), read_built _ _ _ (by decide)]; decide
/-- W7: an empty ROM. -/
theorem test_boot_empty : (nextOf (State.boot Params.standard [] 7)).isNone = true := by decide

/-! ## Witnesses: concrete states and operands that meet the hypotheses of each statement -/

/-- A sprite at address I, with its corner in V0 and V1. -/
def sprite (cx cy : Byte) (i : Word) (bytes : List Byte) : State :=
  { poke (withV [(0, cx), (1, cy)]) i.toNat bytes with iReg := i }

/-- The jump to itself at 0x200, with the timers at given values. -/
def spin (dt st : Byte) (beep : Bool) : State := { start.withFetchWord 16 0x1200 with dt := dt, st := st, beep := beep }

/-- A CORE halted by the word 0x0000 at 0x200. -/
def stopped : State := start.enterFault .unknownOpcode

theorem spin_fetchInstr (dt st : Byte) (beep : Bool) : (spin dt st beep).fetchInstr = .ok (.jp 0x200) := by
  have hw : (spin dt st beep).fetchWord = (start.withFetchWord 16 0x1200).fetchWord := rfl
  refine fetchInstr_known _ _ ?_ ?_
  · exact (by decide : 0x200 ≤ (0x200 : Word).toNat ∧ (0x200 : Word).toNat ≤ 0xFFE)
  · rw [hw]; decide

theorem reset_recordOk : State.reset.RecordOk := fun _ h => by simp [State.reset] at h

theorem witness_ClsClearsTheScreen : decode 0x00E0 = .known .cls := by decide

theorem witness_RetPopsTheReturnAddress_empty : start.sp.val = 0 := by decide
theorem witness_RetPopsTheReturnAddress_one : 0 < ({ start with sp := 1 } : State).sp.val := by decide
theorem witness_RetPopsTheReturnAddress_full : 0 < ({ start with sp := 15 } : State).sp.val := by decide
theorem witness_RetPopsTheReturnAddress_word : decode 0x00EE = .known .ret := by decide

theorem witness_CallPushesAndJumps_addr : (0xFFF : Word).toNat < 4096 := by decide
theorem witness_CallPushesAndJumps_full : ({ start with sp := 15 } : State).sp.val = 15 := by decide
theorem witness_CallPushesAndJumps_room : ({ start with sp := 14 } : State).sp.val < 15 := by decide

theorem witness_JumpLoadsPc_addr : (0xFFF : Word).toNat < 4096 := by decide

/-- The largest operand and the largest V0, where the sum is 0x10FE (R63). -/
theorem witness_JumpV0AddsWithoutWrap : (0xFFF : Word).toNat < 4096 ∧ (withV [(0, 0xFF)]).getV 0 = 0xFF := by decide

theorem witness_AddSetsCarry : (14 : Reg) ≠ 15 ∧ (15 : Reg) ∈ ([14, 15] : List Reg) ∧ (13 : Reg) ∉ ([14, 15] : List Reg) := by
  decide
theorem witness_SubSetsNoBorrow : (0 : Reg) ≠ 15 := by decide
theorem witness_SubnSetsNoBorrow : (14 : Reg) ≠ 15 := by decide
theorem witness_ShrShiftsOutBitZero : (0 : Reg) ≠ 15 := by decide
theorem witness_ShlShiftsOutBitSeven : (14 : Reg) ≠ 15 := by decide

theorem witness_IndexRegisterWrites : (0 : Word).toNat < 4096 ∧ (0xFFF : Word).toNat < 4096 := by decide

theorem witness_StoreDecimalDigits_faults : 0xFFF < ({ start with iReg := 0xFFE } : State).iReg.toNat + 2 := by decide
theorem witness_StoreDecimalDigits_runs : ({ start with iReg := 0xFFD } : State).iReg.toNat + 2 ≤ 0xFFF := by decide

theorem witness_StoreRegisterBlock_faults :
    0xFFF < ({ start with iReg := 0xFF1 } : State).iReg.toNat + (15 : Reg).val := by decide
theorem witness_StoreRegisterBlock_runs :
    ({ start with iReg := 0xFF0 } : State).iReg.toNat + (15 : Reg).val ≤ 0xFFF ∧ (15 : Reg) ≤ 15 := by decide
theorem witness_StoreRegisterBlock_one : ({ start with iReg := 0xFFF } : State).iReg.toNat + (0 : Reg).val ≤ 0xFFF := by
  decide

theorem witness_LoadRegisterBlock_faults :
    0xFFF < ({ start with iReg := 0x1000 } : State).iReg.toNat + (0 : Reg).val := by decide
theorem witness_LoadRegisterBlock_runs :
    ({ start with iReg := 0xFFF } : State).iReg.toNat + (0 : Reg).val ≤ 0xFFF ∧ (0 : Reg) ≤ 0 ∧ (0 : Reg) < 1 := by decide

theorem witness_StoreIntoCodeIsFetchedNext :
    1 ≤ (1 : Reg).val ∧ ({ start with iReg := 0x202 } : State).iReg.toNat + (1 : Reg).val ≤ 0xFFF ∧
      ({ start with iReg := 0x202 } : State).iReg.toNat = ({ start with iReg := 0x202 } : State).pc.toNat + 2 := by decide
theorem witness_StoreIntoCodeIsFetchedNext_last :
    ({ start with iReg := 0xFFE, pc := 0xFFC } : State).iReg.toNat + (1 : Reg).val ≤ 0xFFF ∧
      ({ start with iReg := 0xFFE, pc := 0xFFC } : State).iReg.toNat =
        ({ start with iReg := 0xFFE, pc := 0xFFC } : State).pc.toNat + 2 := by decide

/-- After the store, a state with other registers and the same memory and I. -/
theorem witness_StoreThenLoadRestoresBlock : ({ start with iReg := 0xFF0 } : State).iReg.toNat + (15 : Reg).val ≤ 0xFFF ∧
    ∃ t, exec (.ldStore 15) { start with iReg := 0xFF0 } = .next t ∧
      ({ t with v := Vector.replicate 16 7 } : State).mem = t.mem ∧
      ({ t with v := Vector.replicate 16 7 } : State).iReg = t.iReg := ⟨by decide, _, rfl, rfl, rfl⟩

theorem witness_RandomByteOfTheStream : start.rngMode = .stream := rfl
theorem witness_RandomByteOfTheDraw : ({ start with rngMode := .draw } : State).rngMode = .draw := rfl

theorem witness_StreamIsInvertibleAndFixesZero : start.rngMode = .stream ∧ start.rng ≠ 0 ∧
    ({ start with rng := 0 } : State).rngMode = .stream ∧ ({ start with rng := 0 } : State).rng = 0 := by decide

/-- Another order of the two pixels of a sprite. -/
theorem witness_SpriteBitsAddressDistinctPixels : [1, 0].Perm ((sprite 0 0 0x300 [0xC0]).drawnPixels 0 1 1) ∧
    ∀ p ∈ [1, 0], p ≤ 2047 := by decide

theorem witness_DrawInvertsAddressedPixels_height : 0 < 16 ∧ 15 < 16 := by decide
/-- D8: the second sprite byte would lie at 0x1000. -/
theorem witness_DrawInvertsAddressedPixels_memRange : ¬ SpriteInMemory { start with iReg := 0xFFF } 2 := by decide
/-- D5: the second set bit addresses index 2048. -/
theorem witness_DrawInvertsAddressedPixels_pixelRange : SpriteInMemory (sprite 63 31 0x300 [0xC0]) 1 ∧
    ∃ p, 2047 < p ∧ SpriteSets (sprite 63 31 0x300 [0xC0]) 0 1 1 p :=
  ⟨by decide, 2048, by decide, 0, by decide, 1, by decide, by decide, by decide⟩
/-- D4: the one set bit addresses index 2047. -/
theorem witness_DrawInvertsAddressedPixels_runs : SpriteInMemory (sprite 63 31 0x300 [0x80]) 1 ∧
    (∀ p, SpriteSets (sprite 63 31 0x300 [0x80]) 0 1 1 p → p ≤ 2047) ∧
    SpriteSets (sprite 63 31 0x300 [0x80]) 0 1 1 2047 ∧ (sprite 63 31 0x300 [0x80]).pixel 2047 = false :=
  ⟨by decide, fun p h => (pixelsFit_iff _).1 (by decide) p ((mem_drawnPixels _ _ _ _ _).2 h),
    ⟨0, by decide, 0, by decide, by decide, by decide⟩, by decide⟩
/-- D9: the last byte of memory, and D10: no byte needs no address. -/
theorem witness_DrawInvertsAddressedPixels_edges : SpriteInMemory { start with iReg := 0xFFF } 1 ∧
    SpriteInMemory { start with iReg := 0xFFFF } 0 := by decide
/-- D12: a set bit over a set pixel. -/
theorem witness_DrawInvertsAddressedPixels_collision :
    ∃ p, SpriteSets { sprite 0 0 0x300 [0x80] with fb := start.fb.set 0 1 } 0 1 1 p ∧
      ({ sprite 0 0 0x300 [0x80] with fb := start.fb.set 0 1 } : State).pixel p = true :=
  ⟨0, ⟨0, by decide, 0, by decide, by decide, by decide⟩, by decide⟩

theorem witness_DrawingTwiceRestoresTheScreen : (0 : Reg) ≠ 15 ∧ (1 : Reg) ≠ 15 ∧
    SpriteInMemory (sprite 63 31 0x300 [0x80]) 1 ∧
    (∀ p, SpriteSets (sprite 63 31 0x300 [0x80]) 0 1 1 p → p ≤ 2047) ∧
    (∃ p, SpriteSets (sprite 63 31 0x300 [0x80]) 0 1 1 p ∧ (sprite 63 31 0x300 [0x80]).pixel p = false) ∧
    ∃ t, exec (.drw 0 1 1) (sprite 63 31 0x300 [0x80]) = .next t ∧ (∀ p, t.tick.pixel p = t.pixel p) ∧
      t.tick.getV 0 = t.getV 0 ∧ t.tick.getV 1 = t.getV 1 ∧ SameI t t.tick ∧
      ∀ k, k < 1 → t.tick.readMem (t.iReg.toNat + k) = t.readMem (t.iReg.toNat + k) :=
  ⟨by decide, by decide, by decide,
    fun p h => (pixelsFit_iff _).1 (by decide) p ((mem_drawnPixels _ _ _ _ _).2 h),
    ⟨2047, ⟨0, by decide, 0, by decide, by decide, by decide⟩, by decide⟩,
    _, rfl, fun _ => rfl, rfl, rfl, rfl, fun _ _ => rfl⟩
/-- The same with the pixel set before the first draw. -/
theorem witness_DrawingTwiceRestoresTheScreen_overSetPixels :
    ∀ p, SpriteSets { sprite 0 0 0x300 [0x80] with fb := start.fb.set 0 1 } 0 1 1 p →
      ({ sprite 0 0 0x300 [0x80] with fb := start.fb.set 0 1 } : State).pixel p = true := by
  intro p h
  have h := (mem_drawnPixels _ _ _ _ _).2 h
  have e : (sprite 0 0 0x300 [0x80]).drawnPixels 0 1 1 = [0] := by decide
  obtain rfl : p = 0 := List.mem_singleton.1 (e ▸ (h : p ∈ (sprite 0 0 0x300 [0x80]).drawnPixels 0 1 1))
  decide

theorem witness_SkipOnKey_faults : 15 < ((withV [(0, 0x10)]).getV 0).toNat := by decide
theorem witness_SkipOnKey_runs : ((withV [(0, 0x0F)]).getV 0).toNat ≤ 15 := by decide

theorem witness_LoadHighestPressedKey_none : ∀ k, k < 16 → start.keyPressed k = false := by decide
theorem witness_LoadHighestPressedKey_lowest : ({ start with keys := 1 } : State).keyPressed 0 = true ∧
    ∀ j, j < 16 → 0 < j → ({ start with keys := 1 } : State).keyPressed j = false := by decide
theorem witness_LoadHighestPressedKey_highest : ({ start with keys := 0xFFFF } : State).keyPressed 15 = true ∧
    ∀ j, j < 16 → 15 < j → ({ start with keys := 0xFFFF } : State).keyPressed j = false := by decide

theorem witness_TickEndsEveryCompletedCycle_completes : (spin 0 1 false).halted = false ∧
    (spin 0 1 false).fetchInstr = .ok (.jp 0x200) ∧
    ∃ t, exec (.jp 0x200) (spin 0 1 false) = .next t ∧ t.halted = false ∧ t.st = 1 := ⟨rfl, rfl, _, rfl, rfl, rfl⟩
theorem witness_TickEndsEveryCompletedCycle_fetchFaults : start.halted = false ∧
    start.fetchInstr = .error .unknownOpcode := ⟨rfl, fetchInstr_unknown _ (by decide) (by decide)⟩
theorem witness_TickEndsEveryCompletedCycle_instructionFaults :
    (poke start 0x200 [0x00, 0xEE]).fetchInstr = .ok .ret ∧
    ∃ t, exec .ret (poke start 0x200 [0x00, 0xEE]) = .next t ∧ t.halted = true :=
  ⟨fetchInstr_known _ _ (by decide) (by decide), _, rfl, rfl⟩

/-- Two cycles from DT = 1: the count ends before the cycles do. -/
theorem witness_DelayTimerCountsCycles : ∃ u, core.run 2 (spin 1 0 false) = .next u ∧ u.halted = false ∧
    ∀ k, k < 2 → ∀ (m : State) (x : Reg), core.run k (spin 1 0 false) = .next m → m.fetchInstr ≠ .ok (.ldDtVx x) := by
  refine ⟨spin 0 0 false, rfl, rfl, fun k hk m x hm => ?_⟩
  have h0 : core.run 0 (spin 1 0 false) = .next (spin 1 0 false) := rfl
  have h1 : core.run 1 (spin 1 0 false) = .next (spin 0 0 false) := rfl
  obtain rfl | rfl : k = 0 ∨ k = 1 := by omega
  · rw [h0] at hm; cases hm; rw [spin_fetchInstr]; simp
  · rw [h1] at hm; cases hm; rw [spin_fetchInstr]; simp

/-- Two cycles from ST = 2: BEEP in the second. -/
theorem witness_SoundTimerBeepsOnce : ∃ u, core.run (1 + 1) (spin 0 2 false) = .next u ∧ u.halted = false ∧
    u.beep = true ∧
    ∀ k, k < 1 + 1 → ∀ (m : State) (x : Reg), core.run k (spin 0 2 false) = .next m →
      m.fetchInstr ≠ .ok (.ldStVx x) := by
  refine ⟨spin 0 0 true, rfl, rfl, rfl, fun k hk m x hm => ?_⟩
  have h0 : core.run 0 (spin 0 2 false) = .next (spin 0 2 false) := rfl
  have h1 : core.run 1 (spin 0 2 false) = .next (spin 0 1 false) := rfl
  obtain rfl | rfl : k = 0 ∨ k = 1 := by omega
  · rw [h0] at hm; cases hm; rw [spin_fetchInstr]; simp
  · rw [h1] at hm; cases hm; rw [spin_fetchInstr]; simp

theorem witness_StepRunsTheDecodedInstruction_first : (spin 0 0 false).halted = false ∧ 0x200 ≤ (spin 0 0 false).pc.toNat ∧
    (spin 0 0 false).pc.toNat ≤ 0xFFE ∧ (0x1200 : Word).toNat =
      ((spin 0 0 false).readMem (spin 0 0 false).pc.toNat).toNat * 256 +
        ((spin 0 0 false).readMem ((spin 0 0 false).pc.toNat + 1)).toNat ∧
    decode 0x1200 = .known (.jp 0x200) := by decide
/-- The last address a fetch may use (E4). -/
theorem witness_StepRunsTheDecodedInstruction_last : (0x1200 : Word).toNat =
    ((poke { start with pc := 0xFFE } 0xFFE [0x12, 0x00]).readMem 0xFFE).toNat * 256 +
      ((poke { start with pc := 0xFFE } 0xFFE [0x12, 0x00]).readMem (0xFFE + 1)).toNat ∧
    (poke { start with pc := 0xFFE } 0xFFE [0x12, 0x00]).pc.toNat ≤ 0xFFE := by decide

theorem witness_FetchAndDecodeFaults_below :
    ({ start with pc := 0x1FF } : State).halted = false ∧ ({ start with pc := 0x1FF } : State).pc.toNat < 0x200 := by decide
theorem witness_FetchAndDecodeFaults_above :
    ({ start with pc := 0xFFF } : State).halted = false ∧ 0xFFE < ({ start with pc := 0xFFF } : State).pc.toNat := by decide
/-- The zero word at both ends of the legal range. -/
theorem witness_FetchAndDecodeFaults_illegal : start.halted = false ∧ 0x200 ≤ start.pc.toNat ∧
    (0x0000 : Word).toNat = (start.readMem start.pc.toNat).toNat * 256 + (start.readMem (start.pc.toNat + 1)).toNat ∧
    (0x0000 : Word).toNat = (start.readMem 0xFFE).toNat * 256 + (start.readMem (0xFFE + 1)).toNat ∧
    illegalWord 0x0000 = true := by decide

theorem witness_InstructionFaultsAsTabled_call : Raises (.call 0x300) { start with sp := 15 } .stackOverflow :=
  ⟨rfl, rfl⟩
theorem witness_InstructionFaultsAsTabled_ret : Raises .ret start .stackUnderflow := ⟨rfl, rfl⟩
theorem witness_InstructionFaultsAsTabled_drwMem : Raises (.drw 0 1 2) { start with iReg := 0xFFF } .memRange :=
  .inl ⟨rfl, witness_DrawInvertsAddressedPixels_memRange⟩
theorem witness_InstructionFaultsAsTabled_drwPixel : Raises (.drw 0 1 1) (sprite 63 31 0x300 [0xC0]) .pixelRange :=
  .inr ⟨rfl, witness_DrawInvertsAddressedPixels_pixelRange⟩
theorem witness_InstructionFaultsAsTabled_ldB : Raises (.ldB 0) { start with iReg := 0xFFE } .memRange :=
  ⟨rfl, by decide⟩
theorem witness_InstructionFaultsAsTabled_ldStore : Raises (.ldStore 15) { start with iReg := 0xFF1 } .memRange :=
  ⟨rfl, by decide⟩
theorem witness_InstructionFaultsAsTabled_ldLoad : Raises (.ldLoad 0) { start with iReg := 0x1000 } .memRange :=
  ⟨rfl, by decide⟩
theorem witness_InstructionFaultsAsTabled_skp : Raises (.skp 0) (withV [(0, 0x10)]) .keyRange := ⟨rfl, by decide⟩
theorem witness_InstructionFaultsAsTabled_sknp : Raises (.sknp 0) (withV [(0, 0x10)]) .keyRange := ⟨rfl, by decide⟩
theorem witness_InstructionFaultsAsTabled_none : ∀ reason, ¬ Raises .cls start reason := fun _ h => h
/-- An instruction of the table in a state where it raises nothing. -/
theorem witness_InstructionFaultsAsTabled_callRuns : ∀ reason, ¬ Raises (.call 0x300) { start with sp := 14 } reason :=
  fun _ h => absurd h.2 (by decide)

theorem witness_FaultEntryFreezesTheState : step start = .next stopped ∧ start.halted = false ∧ stopped.halted = true := by
  refine ⟨?_, rfl, rfl⟩
  have h : start.fetchInstr = .error .unknownOpcode := fetchInstr_unknown _ (by decide) (by decide)
  unfold step
  rw [h]
  rfl

theorem witness_HaltedCoreStaysHalted : stopped.halted = true ∧ stopped.beep = false := by decide
theorem witness_HaltedCoreStaysHalted_host : stopped.halted = true ∧
    (∀ p rom seed, HostEvent.key 3 true ≠ .reset p rom seed) ∧
    hostStep (.key 3 true) stopped = .next (stopped.setKey 3 true) :=
  ⟨rfl, by simp, rfl⟩

theorem witness_OnlyNamedInstructionsWriteEachUnit : (∃ t, exec (.ldByte 0 1) start = .next t) ∧
    (∀ a, Instr.ldByte 0 1 ≠ .ldI a) ∧ (∀ x, Instr.ldByte 0 1 ≠ .addI x) ∧ (∀ x, Instr.ldByte 0 1 ≠ .ldF x) ∧
    Instr.ldByte 0 1 ≠ .ret ∧ (∀ a, Instr.ldByte 0 1 ≠ .call a) ∧ (∀ x, Instr.ldByte 0 1 ≠ .ldDtVx x) ∧
    (∀ x, Instr.ldByte 0 1 ≠ .ldStVx x) ∧ Instr.ldByte 0 1 ≠ .cls ∧ (∀ x y n, Instr.ldByte 0 1 ≠ .drw x y n) ∧
    (∀ x, Instr.ldByte 0 1 ≠ .ldB x) ∧ (∀ x, Instr.ldByte 0 1 ≠ .ldStore x) ∧ ∀ x kk, Instr.ldByte 0 1 ≠ .rnd x kk :=
  ⟨⟨_, rfl⟩, by simp⟩

theorem witness_RegistersWrittenAsTabled_flag : (∃ t, exec (.addReg 0 1) start = .next t) ∧
    (14 : Reg) ∉ writtenV (.addReg 0 1) := ⟨⟨_, rfl⟩, by decide⟩
theorem witness_RegistersWrittenAsTabled_block : (∃ t, exec (.ldLoad 14) start = .next t) ∧
    (15 : Reg) ∉ writtenV (.ldLoad 14) := ⟨⟨_, rfl⟩, by decide⟩

theorem witness_UnreadRegistersDoNotMatter_copy : (0 : Reg) ∉ readV (.ldReg 0 1) ∧
    ∃ t, exec (.ldReg 0 1) start = .next t := ⟨by decide, _, rfl⟩
theorem witness_UnreadRegistersDoNotMatter_block : (15 : Reg) ∉ readV (.ldStore 14) ∧
    ∃ t, exec (.ldStore 14) start = .next t := ⟨by decide, _, rfl⟩

theorem witness_StaleStackEntriesAreInvisible_lowest : start.sp.val ≤ 0 ∧ 0 < 15 ∧
    ∃ t, exec (.call 0x300) start = .next t := ⟨by decide, by decide, _, rfl⟩
theorem witness_StaleStackEntriesAreInvisible_highest : ({ start with sp := 14 } : State).sp.val ≤ 14 ∧ 14 < 15 ∧
    ∃ t, exec .ret { start with sp := 14 } = .next t := ⟨by decide, by decide, _, rfl⟩

theorem witness_CallThenRetReturns : ({ start with sp := 14 } : State).sp.val < 15 ∧
    ∃ t, exec (.call 0x300) { start with sp := 14 } = .next t ∧ SameStack t t.tick :=
  ⟨by decide, _, rfl, rfl, fun _ => rfl⟩

theorem witness_DecodeOfEncodeIsTheInstruction : (Instr.jp 0xFFF).wellFormed = true ∧ (Instr.drw 15 0 15).wellFormed = true ∧
    (Instr.shr 3 9).wellFormed = true := by decide

theorem witness_DecodeFollowsTheOpcodeMap : decode 0x00EE = .known .ret ∧ decode 0x00EF = .unknown := by decide

theorem witness_ResetBuildsTheTabledState_one : 0 < ([0x12] : List Byte).length ∧ ([0x12] : List Byte).length ≤ 3584 := by
  decide
theorem witness_ResetBuildsTheTabledState_most :
    0 < (List.replicate 3584 (1 : Byte)).length ∧ (List.replicate 3584 (1 : Byte)).length ≤ 3584 := by
  rw [List.length_replicate]; decide

theorem witness_ResetBuildsTheTabledState_none : ([] : List Byte).length = 0 := rfl

theorem witness_ResetRefusesBadRomSizes_large : 3584 < (List.replicate 3585 (1 : Byte)).length := by
  rw [List.length_replicate]; decide
/-- While no state is built: a cycle, a key and another bad RESET. -/
theorem witness_ResetRefusesBadRomSizes_events : ∀ (p : Params) (rom : List Byte) (seed : Word32),
    HostEvent.reset p rom seed ∈ [HostEvent.cycle, .key 3 true, .reset Params.standard [] 1] →
      rom.length = 0 ∨ 3584 < rom.length := by
  intro p rom seed h
  simp only [List.mem_cons, reduceCtorEq, HostEvent.reset.injEq, List.not_mem_nil, or_false, false_or] at h
  exact .inl (by rw [h.2.1]; rfl)
theorem witness_ResetRefusesBadRomSizes_legal : 0 < ([0x12] : List Byte).length ∧ ([0x12] : List Byte).length ≤ 3584 := by
  decide

theorem witness_ResetStateHoldsTabledValues : 80 ≤ 80 ∧ fontTable.length = 80 := by decide

theorem witness_StepKeepsMemoryCanonical : State.reset.MemOk ∧ ∃ t, step State.reset = .next t := ⟨by decide, _, rfl⟩

theorem witness_StepKeepsPcBounded : State.reset.PcBounded ∧ ∃ t, step State.reset = .next t :=
  ⟨⟨by decide, by decide⟩, _, rfl⟩
/-- The largest pc that a step can leave. -/
theorem witness_StepKeepsPcBounded_top : ({ start with pc := 0x10FE } : State).PcBounded := ⟨by decide, by decide⟩

theorem witness_StepKeepsFaultRecord_running : State.reset.RunStatusOk ∧ State.reset.RecordOk ∧
    ∃ t, step State.reset = .next t := ⟨⟨rfl, by decide⟩, reset_recordOk, _, rfl⟩
theorem witness_StepKeepsFaultRecord_halted : stopped.RunStatusOk ∧ stopped.RecordOk ∧ ∃ t, step stopped = .next t :=
  ⟨⟨rfl, fun _ => rfl⟩, fun _ h => by cases h; exact ⟨rfl, rfl⟩, _, rfl⟩

theorem witness_HostRunKeepsInvariant : State.reset.Inv ∧
    ∃ t, hostRun [.key 3 true, .cycle, .drawClear, .cycle] (.next State.reset) = .next t :=
  ⟨⟨by decide, ⟨by decide, by decide⟩, ⟨rfl, by decide⟩, reset_recordOk⟩, _, rfl⟩

/-- From no state: the second RESET builds one. -/
theorem witness_HostRunKeepsInvariant_unbuilt :
    (∀ s, (.refused .bootFailedRomSize : Host.Outcome State Fault Refusal) = .next s → s.Inv) ∧
    ∃ t, hostRun [.cycle, .reset Params.standard [] 1, .reset Params.standard [0x12] 1] (.refused .bootFailedRomSize) =
      .next t := ⟨by simp, _, rfl⟩

theorem witness_HostWritesKeysAndClearsDraw : (14 : Nat) ≠ (15 : Fin 16).val := by decide

end Sys2Proof.Tests
end

section
/-! PROOFS. The host's events between cycles: what each leaves of the state (R5, R22, R24), and that every event, the
cycle among them, keeps the invariant. The invariant's step lemmas stand alone, part by part, so that a statement about
`step` can cite them. -/

namespace Sys2Proof.Machine

/-! ## Key latch -/

/-- The host's write of one key sets that key and leaves every other key alone (R22). -/
theorem keyPressed_setKey (s : State) (k : Fin 16) (b : Bool) (j : Nat) :
    (s.setKey k b).keyPressed j = if j = k.val then b else s.keyPressed j := by
  by_cases e : j = k.val
  · subst e
    cases b <;> simp [State.setKey, State.keyPressed]
  · have hj : s.keys.getLsbD j = true → j < 16 := BitVec.lt_of_getLsbD
    cases b
    · simpa [State.setKey, State.keyPressed, e, Ne.symm e] using hj
    · simp [State.setKey, State.keyPressed, e, Ne.symm e]

/-! ## What decode answers is well-formed -/

/-- A 12-bit field is a 12-bit address (R49). -/
theorem addrFits_fieldNnn (w : Word) : addrFits (fieldNnn w) = true := by
  have := field_lt w 0 12
  simp only [addrFits, fieldNnn, BitVec.toNat_ofNat, decide_eq_true_eq]
  omega

/-- A 4-bit field is a sprite height (R49). -/
theorem heightFits_fieldN (w : Word) : heightFits (fieldN w) = true := decide_eq_true (field_lt w 0 4)

theorem decodeFamily8_wellFormed (x y : Reg) (n : Nat) (i : Instr) (h : decodeFamily8 x y n = .known i) :
    i.wellFormed = true := by
  unfold decodeFamily8 at h
  split at h <;> cases h <;> rfl

theorem decodeFamilyE_wellFormed (x : Reg) (kk : Byte) (i : Instr) (h : decodeFamilyE x kk = .known i) :
    i.wellFormed = true := by
  unfold decodeFamilyE at h
  split at h <;> cases h <;> rfl

theorem decodeFamilyF_wellFormed (x : Reg) (kk : Byte) (i : Instr) (h : decodeFamilyF x kk = .known i) :
    i.wellFormed = true := by
  unfold decodeFamilyF at h
  split at h <;> cases h <;> rfl

/-- Every instruction decode answers is well-formed: its `addr` and `n` come from fields of their widths (R49, R54). -/
theorem decode_wellFormed (w : Word) (i : Instr) (h : decode w = .known i) : i.wellFormed = true := by
  unfold decode at h
  split at h
  case h_1 =>
    split at h
    · cases h; rfl
    · split at h <;> cases h; rfl
  case h_2 | h_3 | h_11 | h_12 => cases h; exact addrFits_fieldNnn w
  case h_14 => cases h; exact heightFits_fieldN w
  case h_6 | h_10 => split at h <;> cases h; rfl
  case h_9 => exact decodeFamily8_wellFormed _ _ _ _ h
  case h_15 => exact decodeFamilyE_wellFormed _ _ _ h
  case h_16 => exact decodeFamilyF_wellFormed _ _ _ h
  all_goals cases h <;> rfl

/-! ## Outcomes -/

/-- If the outcome is a next state, that state meets `P`. -/
abbrev Answers (P : State → Prop) (o : Host.Outcome State Fault Refusal) : Prop := ∀ t, o = .next t → P t

theorem Answers.next {P : State → Prop} {s : State} (h : P s) : Answers P (.next s) := by
  rintro _ ⟨⟩; exact h

theorem Answers.refused (P : State → Prop) (r : Refusal) : Answers P (.refused r) := by
  rintro _ ⟨⟩

/-! ## What an instruction can do to memory, call stack and pc -/

/-- Where a well-formed instruction can leave pc (R17, R60 to R63, R106). -/
inductive NextPc (s : State) : Word → Prop where
  | stays : NextPc s s.pc
  | advances : NextPc s (s.pc + 2)
  | skips : NextPc s (s.pc + 4)
  | returns (k : Nat) (h : k < 15) : NextPc s (s.stackAt k)
  | jumps (addr : Word) (h : addr.toNat < 4096) : NextPc s addr
  | jumpsByV0 (addr : Word) (h : addr.toNat < 4096) : NextPc s (addr + (s.getV 0).setWidth 16)

/-- What a well-formed instruction can do to memory, to the return addresses and to pc. -/
structure Effect (s t : State) : Prop where
  mem : t.mem = s.mem ∨ ∃ bytes, t.mem = s.mem.writeRange s.iReg.toNat bytes
  stack : ∀ k, t.stackAt k = s.stackAt k ∨ t.stackAt k = s.pc + 2
  pc : NextPc s t.pc

/-- An instruction that writes neither memory nor the stack. -/
theorem Effect.of_same {s t : State} (hm : t.mem = s.mem) (hs : ∀ k, t.stackAt k = s.stackAt k) (hp : NextPc s t.pc) :
    Effect s t := ⟨.inl hm, fun k => .inl (hs k), hp⟩

/-- A store at I. -/
theorem Effect.of_writeAtI (s : State) (bytes : List Byte) : Effect s (s.advance.writeAtI bytes) :=
  ⟨.inr ⟨bytes, rfl⟩, fun _ => .inl rfl, .advances⟩

/-- A fault entry. -/
theorem Effect.of_fault (s : State) (reason : FaultReason) : Answers (Effect s) (raiseFault reason s) :=
  .next (.of_same rfl (fun _ => rfl) .stays)

/-- A skip. -/
theorem Effect.of_skipIf (s : State) (c : Bool) : Effect s (s.advance.skipIf c) := by
  refine .of_same (by simp) (by simp) ?_
  rw [skipIf_advance_pc]
  split
  · exact .skips
  · exact .advances

/-- Memory changes only by a store at I, the stack only by a push of the advanced pc, and pc goes to one of the places
`NextPc` lists. -/
theorem exec_effect (i : Instr) (s : State) (hi : i.wellFormed = true) : Answers (Effect s) (exec i s) := by
  cases i with
  | ret =>
    simp only [exec, execRet]
    by_cases hsp : s.sp.val = 0
    · rw [pop_empty s.advance hsp]; exact .of_fault s _
    · obtain ⟨t, ht, rfl, -⟩ := pop_spec s.advance (by rw [advance_sp]; omega)
      rw [ht]
      exact .next (.of_same rfl (fun _ => rfl) (.returns (s.sp.val - 1) (by omega)))
  | call addr =>
    simp only [exec, execCall]
    by_cases hsp : s.sp.val = 15
    · rw [push_full s.advance _ hsp]; exact .of_fault s _
    · obtain ⟨t, ht, he, -, hs⟩ := push_spec s.advance s.advance.pc (by rw [advance_sp]; omega)
      have hm : t.mem = s.mem := by rw [he]; rfl
      rw [ht]
      refine .next ⟨.inl hm, fun k => ?_, .jumps addr (of_decide_eq_true hi)⟩
      rw [stackAt_setPc, hs]
      split
      · exact .inr rfl
      · exact .inl rfl
  | jp addr => exact .next (.of_same rfl (fun _ => rfl) (.jumps addr (of_decide_eq_true hi)))
  | jpV0 addr => exact .next (.of_same rfl (fun _ => rfl) (.jumpsByV0 addr (of_decide_eq_true hi)))
  | seByte x kk | sneByte x kk | seReg x y | sneReg x y => exact .next (.of_skipIf s _)
  | skp x | sknp x =>
    simp only [exec, execSkp, execSknp]
    split
    · exact .of_fault s _
    · exact .next (.of_skipIf s _)
  | ldB x | ldStore x =>
    simp only [exec, execLdB, execLdStore]
    split
    · exact .next (.of_writeAtI s _)
    · exact .of_fault s _
  | ldLoad x =>
    simp only [exec, execLdLoad]
    split
    · rw [loadRegs_eq]; exact .next (.of_same rfl (fun _ => rfl) .advances)
    · exact .of_fault s _
  | drw x y n =>
    simp only [exec, execDrw]
    split
    · split
      · exact .next (.of_same rfl (fun _ => rfl) .advances)
      · exact .of_fault s _
    · exact .of_fault s _
  | ldVxK x =>
    simp only [exec, execLdVxK]
    split <;> exact .next (.of_same rfl (fun _ => rfl) .advances)
  | rnd x kk =>
    simp only [exec, execRnd]
    rw [afterRandom_eq]
    exact .next (.of_same rfl (fun _ => rfl) .advances)
  | cls | ldByte x kk | addByte x kk | ldReg x y | orReg x y | andReg x y | xorReg x y | addReg x y | subReg x y
  | shr x y | subnReg x y | shl x y | ldI addr | ldVxDt x | ldDtVx x | ldStVx x | addI x | ldF x =>
    exact .next (.of_same rfl (fun _ => rfl) .advances)

/-- What a step can do to memory, call stack and pc: nothing, or what an instruction fetched in range does. -/
theorem step_effect (s t : State) (h : step s = .next t) :
    (t.mem = s.mem ∧ t.stack = s.stack ∧ t.pc = s.pc) ∨ (s.pc.toNat ≤ 0xFFE ∧ Effect s t) := by
  rcases step_cases s t h with ⟨-, rfl⟩ | ⟨-, _, -, rfl⟩ | ⟨-, _, _, -, -, -, rfl⟩ | ⟨-, i, u, hf, he, -, rfl⟩
  · exact .inl ⟨rfl, rfl, rfl⟩
  · exact .inl ⟨rfl, rfl, rfl⟩
  · exact .inl ⟨rfl, rfl, rfl⟩
  · obtain ⟨⟨-, hpc⟩, hd⟩ := fetchInstr_ok s i hf
    obtain ⟨hm, hs, hp⟩ := exec_effect i s (decode_wellFormed _ _ hd) u he
    exact .inr ⟨hpc, hm, hs, hp⟩

/-! ## Every step keeps each part of the invariant -/

/-- Every step keeps memory in its canonical form. -/
theorem step_keeps_memOk (s : State) (h : s.MemOk) : Answers State.MemOk (step s) := by
  intro t ht
  rcases step_effect s t ht with ⟨hm, -, -⟩ | ⟨-, hm | ⟨bytes, hm⟩, -, -⟩
  · unfold State.MemOk; rwa [hm]
  · unfold State.MemOk; rwa [hm]
  · unfold State.MemOk; rw [hm]; exact writeRange_wf _ _ _ h

/-- From a pc in the fetch range, every place pc can go is at or below 0x10FE: the most is 0xFFF + 255 (R18, R63). -/
theorem nextPc_le (s : State) (h : s.PcBounded) (hpc : s.pc.toNat ≤ 0xFFE) (a : Word) (ha : NextPc s a) :
    a.toNat ≤ 0x10FE := by
  cases ha with
  | stays => exact h.1
  | advances => bv_omega
  | skips => bv_omega
  | returns k hk => exact (h.2 k hk).trans (by decide)
  | jumps addr haddr => omega
  | jumpsByV0 addr haddr =>
    have := (s.getV 0).isLt
    simp only [BitVec.toNat_add, BitVec.toNat_setWidth]
    omega

/-- Every step keeps pc at or below 0x10FE and every return address at or below 0x1000 (R18). -/
theorem step_keeps_pcBounded (s : State) (h : s.PcBounded) : Answers State.PcBounded (step s) := by
  intro t ht
  rcases step_effect s t ht with ⟨-, hs, hp⟩ | ⟨hpc, -, hs, hp⟩
  · simpa only [State.PcBounded, State.stackAt, hs, hp] using h
  · refine ⟨nextPc_le s h hpc _ hp, fun k hk => ?_⟩
    rcases hs k with e | e
    · rw [e]; exact h.2 k hk
    · rw [e]; bv_omega

/-- A fault entry leaves a halted state with a record of that very state (R27, R106). -/
theorem enterFault_status (s : State) (reason : FaultReason) :
    (s.enterFault reason).RunStatusOk ∧ (s.enterFault reason).RecordOk := by
  refine ⟨⟨rfl, fun _ => rfl⟩, ?_⟩
  rintro _ ⟨⟩
  exact ⟨rfl, rfl⟩

/-- Every step keeps FAULT empty exactly while not halted, no BEEP while halted, and the record true of the frozen state
(R27, R106, R107). -/
theorem step_keeps_status (s : State) (h : s.RunStatusOk) (hr : s.RecordOk) :
    Answers (fun t => t.RunStatusOk ∧ t.RecordOk) (step s) := by
  intro t ht
  rcases step_cases s t ht with ⟨-, rfl⟩ | ⟨-, _, -, rfl⟩ | ⟨-, _, _, -, -, -, rfl⟩ | ⟨hh, _, u, -, -, hu, rfl⟩
  · exact ⟨⟨h.1, fun _ => rfl⟩, hr⟩
  · exact enterFault_status s _
  · exact enterFault_status s _
  · obtain ⟨hhalted, hfault, -⟩ := hu
    have hrun : u.halted = false := hhalted.trans hh
    have hnone : u.fault = none := hfault.trans (by simpa [hh] using h.1)
    exact ⟨⟨by simp [hrun, hnone], by simp [hrun]⟩, by simp [State.RecordOk, hnone]⟩

/-- Every step keeps the invariant. -/
theorem step_keeps_inv (s : State) (h : s.Inv) : Answers State.Inv (step s) := by
  obtain ⟨hmem, hpc, hstatus, hrecord⟩ := h
  exact fun t ht =>
    ⟨step_keeps_memOk s hmem t ht, step_keeps_pcBounded s hpc t ht, step_keeps_status s hstatus hrecord t ht⟩

/-! ## Every host event keeps the invariant -/

/-- The state a RESET builds meets the invariant, whatever the ROM (R29, R119). -/
theorem built_inv (p : Params) (rom : List Byte) (seed : Word32) : (State.built p rom seed).Inv :=
  have hpc : State.reset.PcBounded := ⟨by decide, by decide⟩
  ⟨built_memOk p rom seed, hpc, ⟨rfl, fun _ => rfl⟩, fun _ h => nomatch h⟩

/-- RESET answers a state that meets the invariant, or none (R119, R120). -/
theorem boot_inv (p : Params) (rom : List Byte) (seed : Word32) : Answers State.Inv (State.boot p rom seed) := by
  unfold State.boot
  split
  · exact .next (built_inv p rom seed)
  · exact .refused _ _

/-- No part of the invariant sees the key latch. -/
theorem setKey_inv (s : State) (k : Fin 16) (b : Bool) : (s.setKey k b).Inv ↔ s.Inv := Iff.rfl

/-- No part of the invariant sees the draw flag. -/
theorem clearDraw_inv (s : State) : s.clearDraw.Inv ↔ s.Inv := Iff.rfl

/-- One event on a state that meets the invariant. -/
theorem hostStep_keeps_inv (e : HostEvent) (s : State) (h : s.Inv) : Answers State.Inv (hostStep e s) := by
  cases e with
  | reset p rom seed => exact boot_inv p rom seed
  | cycle => exact step_keeps_inv s h
  | key k b => exact .next ((setKey_inv s k b).2 h)
  | drawClear => exact .next ((clearDraw_inv s).2 h)

/-- One event on whatever the events before left, a state or none (R120). -/
theorem hostEvent_keeps_inv (e : HostEvent) (o : Host.Outcome State Fault Refusal) (h : Answers State.Inv o) :
    Answers State.Inv (hostEvent e o) := by
  cases o with
  | next s => exact hostStep_keeps_inv e s (h s rfl)
  | fault r => cases r
  | refused r =>
    cases e with
    | reset p rom seed => exact boot_inv p rom seed
    | cycle | key _ _ | drawClear => exact .refused _ r

end Sys2Proof.Machine

namespace Sys2Proof

open Machine

/-- Settles O58, by induction on the events: each keeps the invariant of whatever state stands before it. -/
theorem hostRunKeepsInvariant : Obligations.HostRunKeepsInvariant := by
  intro es
  induction es with
  | nil => exact fun o t h ho => h t ho
  | cons e rest ih => exact fun o t h ho => ih (hostEvent e o) t (hostEvent_keeps_inv e o h) ho

/-- Settles O59: the two events are `setKey` and `clearDraw`, and `keyPressed_setKey` says what the first does. -/
theorem hostWritesKeysAndClearsDraw : Obligations.HostWritesKeysAndClearsDraw := by
  refine ⟨fun s k b => ⟨s.setKey k b, rfl, ?_, fun j hj => ?_, rfl⟩, fun s => ⟨s.clearDraw, rfl, rfl⟩⟩
  · rw [keyPressed_setKey, if_pos rfl]
  · rw [keyPressed_setKey, if_neg hj]

end Sys2Proof
end

section
/-! PROOFS. What each instruction may write (R13, R15, R16, R19, R21 to R25, R37). -/

namespace Sys2Proof.Machine

/-! ## The stack instructions as equations -/

/-- RET in one equation (R60). -/
theorem exec_ret (s : State) :
    exec .ret s =
      if s.sp.val = 0 then raiseFault .stackUnderflow s
      else .next { s with sp := s.sp - 1, pc := s.stackAt (s.sp.val - 1) } := by
  unfold exec execRet State.pop
  by_cases h : s.sp.val = 0
  · simp [h]
  · simp [h]; rfl

/-- CALL in one equation (R62). -/
theorem exec_call (addr : Word) (s : State) :
    exec (.call addr) s =
      if s.sp.val = 15 then raiseFault .stackOverflow s
      else .next { s with stack := s.stack.setIfInBounds s.sp.val (s.pc + 2), sp := s.sp + 1, pc := addr } := by
  unfold exec execCall State.push
  by_cases h : s.sp.val = 15
  · simp [h]
  · simp [h]; rfl

/-! ## Frames -/

/-- From `s` to `t` the instruction `i` changed nothing the spec does not name it as a writer of; pc and the run status
are not spoken of. -/
structure WritesAsTabled (i : Instr) (s t : State) : Prop where
  v : SameV (writtenV i) s t
  index : (∀ a, i ≠ .ldI a) → (∀ x, i ≠ .addI x) → (∀ x, i ≠ .ldF x) → SameI s t
  stack : i ≠ .ret → (∀ a, i ≠ .call a) → SameStack s t
  dt : (∀ x, i ≠ .ldDtVx x) → t.dt = s.dt
  st : (∀ x, i ≠ .ldStVx x) → t.st = s.st
  screen : i ≠ .cls → (∀ x y n, i ≠ .drw x y n) → SameScreen s t
  mem : (∀ x, i ≠ .ldB x) → (∀ x, i ≠ .ldStore x) → SameMem s t
  random : (∀ x kk, i ≠ .rnd x kk) → SameRandom s t
  inputs : SameInputs s t

/-- An instruction that writes V registers alone, or none. -/
theorem WritesAsTabled.of_sameButV {i : Instr} {s t : State} (h : SameButV (writtenV i) s t) :
    WritesAsTabled i s t := by
  obtain ⟨hv, hi, hstack, ⟨hdt, hst⟩, hscreen, hmem, hrandom, hinputs, -⟩ := h
  exact ⟨hv, fun _ _ _ => hi, fun _ _ => hstack, fun _ => hdt, fun _ => hst, fun _ _ => hscreen, fun _ _ => hmem,
    fun _ => hrandom, hinputs⟩

/-- Nothing changed. -/
theorem WritesAsTabled.refl (i : Instr) (s : State) : WritesAsTabled i s s :=
  .of_sameButV ⟨fun _ _ => rfl, rfl, ⟨rfl, fun _ => rfl⟩, ⟨rfl, rfl⟩, ⟨fun _ => rfl, rfl⟩, fun _ => rfl, ⟨rfl, rfl⟩,
    ⟨rfl, rfl⟩, rfl, rfl, rfl⟩

/-- A fault entry writes the run status alone. -/
theorem WritesAsTabled.of_fault (i : Instr) (s : State) (reason : FaultReason) :
    Answers (WritesAsTabled i s) (raiseFault reason s) :=
  .next { WritesAsTabled.refl i s with }

/-- A load of the registers up to Vx changes those alone. -/
theorem sameButV_loadRegs (s : State) (bytes : List Byte) (x : Reg) :
    SameButV (writtenV (.ldLoad x)) s (s.advance.loadRegs bytes (x.val + 1)) := by
  refine ⟨fun r hr => ?_, by rw [loadRegs_eq]; exact (sameButPc_advance s).2⟩
  have hlt : ¬ r.val < x.val + 1 := fun h => hr (by simpa [writtenV] using Nat.lt_succ_iff.1 h)
  rw [getV_loadRegs _ _ _ _ (by omega), if_neg hlt, getV_advance]

/-- Every instruction writes what the spec names it as a writer of, and nothing else. -/
theorem exec_writesAsTabled (i : Instr) (s : State) : Answers (WritesAsTabled i s) (exec i s) := by
  have same := WritesAsTabled.refl i s
  cases i with
  | ret =>
    rw [exec_ret]
    split
    · exact .of_fault _ s _
    · exact .next { same with stack := fun h _ => absurd rfl h }
  | call addr =>
    rw [exec_call]
    split
    · exact .of_fault _ s _
    · exact .next { same with stack := fun _ h => absurd rfl (h addr) }
  | ldI a => exact .next { same with index := fun h _ _ => absurd rfl (h a) }
  | addI x => exact .next { same with index := fun _ h _ => absurd rfl (h x) }
  | ldF x => exact .next { same with index := fun _ _ h => absurd rfl (h x) }
  | ldDtVx x => exact .next { same with dt := fun h => absurd rfl (h x) }
  | ldStVx x => exact .next { same with st := fun h => absurd rfl (h x) }
  | cls => exact .next { same with screen := fun h _ => absurd rfl h }
  | drw x y n =>
    simp only [exec, execDrw]
    split
    · split
      · exact .next { same with
          v := (sameButV_setV s regVF _).1
          screen := fun _ h => absurd rfl (h x y n) }
      · exact .of_fault _ s _
    · exact .of_fault _ s _
  | ldB x =>
    simp only [exec, execLdB]
    split
    · exact .next { same with mem := fun h _ => absurd rfl (h x) }
    · exact .of_fault _ s _
  | ldStore x =>
    simp only [exec, execLdStore]
    split
    · exact .next { same with mem := fun _ h => absurd rfl (h x) }
    · exact .of_fault _ s _
  | rnd x kk =>
    simp only [exec, execRnd]
    rw [afterRandom_eq]
    exact .next { same with
      v := (sameButV_setV s x _).1
      random := fun h => absurd rfl (h x kk) }
  | ldLoad x =>
    simp only [exec, execLdLoad]
    split
    · exact .next (.of_sameButV (sameButV_loadRegs s _ x))
    · exact .of_fault _ s _
  | ldVxK x =>
    simp only [exec, execLdVxK]
    split
    · exact .next { same with }
    · exact .next (.of_sameButV (sameButV_setV s x _))
  | skp x | sknp x =>
    simp only [exec, execSkp, execSknp]
    split
    · exact .of_fault _ s _
    · exact .next (.of_sameButV (sameButPc_skipIf s _))
  | seByte x kk | sneByte x kk | seReg x y | sneReg x y => exact .next (.of_sameButV (sameButPc_skipIf s _))
  | jp addr | jpV0 addr => exact .next { same with }
  | ldByte x kk | addByte x kk | ldReg x y | orReg x y | andReg x y | xorReg x y | ldVxDt x =>
    exact .next (.of_sameButV (sameButV_setV s x _))
  | addReg x y | subReg x y | shr x y | subnReg x y | shl x y =>
    exact .next (.of_sameButV (sameButV_setVAndFlag s x _ _))

end Sys2Proof.Machine

namespace Sys2Proof

open Machine

/-- Settles O41: each clause is a field of `exec_writesAsTabled`. -/
theorem onlyNamedInstructionsWriteEachUnit : Obligations.OnlyNamedInstructionsWriteEachUnit := by
  intro i s t h
  obtain ⟨-, index, stack, dt, st, screen, mem, random, inputs⟩ := exec_writesAsTabled i s t h
  exact ⟨index, stack, dt, st, screen, mem, random, inputs⟩

/-- Settles O42: the registers are the first field of `exec_writesAsTabled`. -/
theorem registersWrittenAsTabled : Obligations.RegistersWrittenAsTabled :=
  fun i s t r h hr => (exec_writesAsTabled i s t h).v r hr

end Sys2Proof
end

section
/-! PROOFS. What an instruction may read (R13, R20): two states that agree on the registers it reads and on the stack
below SP stay in agreement through it. One commuting lemma per operation, then one case split over the instructions. -/

namespace Sys2Proof.Machine

/-! ## Agreement of two states -/

/-- `s` and `s'` differ at most in V and in the stack; they agree on the registers in `E`, on the stack entries in `F`
and on every stack entry below SP. -/
structure Agree (E : Reg → Prop) (F : Nat → Prop) (s s' : State) : Prop where
  rest : ∃ v stack, s' = { s with v := v, stack := stack }
  regs : ∀ q, E q → s'.getV q = s.getV q
  stack : ∀ k, F k ∨ k < s.sp.val → s'.stackAt k = s.stackAt k

/-- If `o` is a next state, so is `o'`, and the two are related. -/
def Lifts (R : State → State → Prop) (o o' : Host.Outcome State Fault Refusal) : Prop :=
  ∀ t, o = .next t → ∃ t', o' = .next t' ∧ R t t'

theorem Lifts.next {R : State → State → Prop} {t t' : State} (h : R t t') : Lifts R (.next t) (.next t') := by
  rintro _ ⟨⟩; exact ⟨t', rfl, h⟩

namespace Agree

variable {E : Reg → Prop} {F : Nat → Prop} {s s' : State}

/-! ## What agreeing states have in common -/

theorem sp_eq (h : Agree E F s s') : s'.sp = s.sp := by obtain ⟨_, _, rfl⟩ := h.rest; rfl
theorem pc_eq (h : Agree E F s s') : s'.pc = s.pc := by obtain ⟨_, _, rfl⟩ := h.rest; rfl
theorem iReg_eq (h : Agree E F s s') : s'.iReg = s.iReg := by obtain ⟨_, _, rfl⟩ := h.rest; rfl
theorem dt_eq (h : Agree E F s s') : s'.dt = s.dt := by obtain ⟨_, _, rfl⟩ := h.rest; rfl
theorem fb_eq (h : Agree E F s s') : s'.fb = s.fb := by obtain ⟨_, _, rfl⟩ := h.rest; rfl
theorem reachable_eq (h : Agree E F s s') (n : Nat) : s'.reachable n = s.reachable n := by
  obtain ⟨_, _, rfl⟩ := h.rest; rfl
theorem readAtI_eq (h : Agree E F s s') (n : Nat) : s'.readAtI n = s.readAtI n := by
  obtain ⟨_, _, rfl⟩ := h.rest; rfl
theorem keyPressed_eq (h : Agree E F s s') (k : Nat) : s'.keyPressed k = s.keyPressed k := by
  obtain ⟨_, _, rfl⟩ := h.rest; rfl
theorem randomWord_eq (h : Agree E F s s') : s'.randomWord = s.randomWord := by obtain ⟨_, _, rfl⟩ := h.rest; rfl

theorem lastPressed_eq (h : Agree E F s s') (n : Nat) : s'.lastPressed n = s.lastPressed n := by
  induction n with
  | zero => rfl
  | succ n ih => simp only [State.lastPressed, h.keyPressed_eq, ih]

theorem keyIndex_eq (h : Agree E F s s') {x : Reg} (hx : E x) : s'.keyIndex x = s.keyIndex x := by
  simp only [State.keyIndex, h.regs x hx]

theorem drawnPixels_eq (h : Agree E F s s') {x y : Reg} (hx : E x) (hy : E y) (n : Nat) :
    s'.drawnPixels x y n = s.drawnPixels x y n := by
  simp only [State.drawnPixels, h.regs x hx, h.regs y hy, h.readAtI_eq]

theorem regBlock_eq (h : Agree E F s s') {x : Reg} (hx : ∀ r ≤ x, E r) :
    s'.regBlock (x.val + 1) = s.regBlock (x.val + 1) := by
  refine List.map_congr_left fun k hk => h.regs _ (hx _ ?_)
  have hk : k < x.val + 1 := List.mem_range.1 hk
  rw [Fin.le_def, Fin.val_ofNat, Nat.mod_eq_of_lt (by omega)]
  omega

/-! ## Operations that keep agreement -/

/-- An update that touches neither V nor the call stack, made on both states. -/
theorem map (f : State → State) (hf : ∀ (s : State) v stack,
      f { s with v := v, stack := stack } = { f s with v := v, stack := stack })
    (hs : ∀ s, (f s).v = s.v ∧ (f s).sp = s.sp ∧ (f s).stack = s.stack)
    (h : Agree E F s s') : Agree E F (f s) (f s') := by
  obtain ⟨hv, hsp, hst⟩ := hs s
  obtain ⟨hv', hsp', hst'⟩ := hs s'
  refine ⟨?_, fun q hq => ?_, fun k hk => ?_⟩
  · obtain ⟨v, stack, rfl⟩ := h.rest; exact ⟨v, stack, hf s v stack⟩
  · simpa only [State.getV, hv, hv'] using h.regs q hq
  · rw [hsp] at hk; simpa only [State.stackAt, hst, hst'] using h.stack k hk

theorem setPc (h : Agree E F s s') (a : Word) : Agree E F (s.setPc a) (s'.setPc a) :=
  h.map (·.setPc a) (fun _ _ _ => rfl) fun _ => ⟨rfl, rfl, rfl⟩

theorem advance (h : Agree E F s s') : Agree E F s.advance s'.advance :=
  h.map (·.advance) (fun _ _ _ => rfl) fun _ => ⟨rfl, rfl, rfl⟩

theorem skipIf (h : Agree E F s s') (c : Bool) : Agree E F (s.skipIf c) (s'.skipIf c) :=
  h.map (·.skipIf c) (fun _ _ _ => by cases c <;> rfl) fun _ => by simp

theorem setI (h : Agree E F s s') (a : Word) : Agree E F (s.setI a) (s'.setI a) :=
  h.map (·.setI a) (fun _ _ _ => rfl) fun _ => ⟨rfl, rfl, rfl⟩

theorem setDt (h : Agree E F s s') (b : Byte) : Agree E F (s.setDt b) (s'.setDt b) :=
  h.map (·.setDt b) (fun _ _ _ => rfl) fun _ => ⟨rfl, rfl, rfl⟩

theorem setSt (h : Agree E F s s') (b : Byte) : Agree E F (s.setSt b) (s'.setSt b) :=
  h.map (·.setSt b) (fun _ _ _ => rfl) fun _ => ⟨rfl, rfl, rfl⟩

theorem writeAtI (h : Agree E F s s') (bytes : List Byte) : Agree E F (s.writeAtI bytes) (s'.writeAtI bytes) :=
  h.map (·.writeAtI bytes) (fun _ _ _ => rfl) fun _ => ⟨rfl, rfl, rfl⟩

theorem screen (h : Agree E F s s') (fb : Framebuffer) (draw : Bool) :
    Agree E F { s with fb := fb, draw := draw } { s' with fb := fb, draw := draw } :=
  h.map (fun s => { s with fb := fb, draw := draw }) (fun _ _ _ => rfl) fun _ => ⟨rfl, rfl, rfl⟩

theorem afterRandom (h : Agree E F s s') : Agree E F s.afterRandom s'.afterRandom :=
  h.map (·.afterRandom) (fun s _ _ => by unfold State.afterRandom; cases s.rngMode <;> rfl) fun _ => by simp

theorem fault (h : Agree E F s s') (reason : FaultReason) :
    Lifts (Agree E F) (raiseFault reason s) (raiseFault reason s') :=
  .next (h.map (·.enterFault reason) (fun _ _ _ => rfl) fun _ => ⟨rfl, rfl, rfl⟩)

theorem setV (h : Agree E F s s') (x : Reg) (b : Byte) : Agree E F (s.setV x b) (s'.setV x b) := by
  refine ⟨?_, fun q hq => ?_, h.stack⟩
  · obtain ⟨v, stack, rfl⟩ := h.rest; exact ⟨v.set x.val b, stack, rfl⟩
  · rw [getV_setV, getV_setV, h.regs q hq]

theorem setVAndFlag (h : Agree E F s s') (x : Reg) (result flag : Byte) :
    Agree E F (s.setVAndFlag x result flag) (s'.setVAndFlag x result flag) := (h.setV x result).setV regVF flag

theorem loadRegs (h : Agree E F s s') (bytes : List Byte) (n : Nat) :
    Agree E F (s.loadRegs bytes n) (s'.loadRegs bytes n) := by
  induction n with
  | zero => exact h
  | succ n ih => exact ih.setV _ _

/-- RET uses only an entry below SP. -/
theorem exec_ret (h : Agree E F s s') : Lifts (Agree E F) (exec .ret s) (exec .ret s') := by
  rw [Machine.exec_ret, Machine.exec_ret, h.sp_eq]
  split
  · exact h.fault _
  · next hsp =>
    have hdec : (s.sp - 1).val = s.sp.val - 1 := Fin.val_sub_one_of_ne_zero (Fin.val_ne_zero_iff.1 hsp)
    rw [h.stack _ (.inr (by omega))]
    refine .next ⟨?_, h.regs, fun k hk => h.stack k (hk.imp_right fun hlt => ?_)⟩
    · obtain ⟨v, stack, rfl⟩ := h.rest; exact ⟨v, stack, rfl⟩
    · exact Nat.lt_of_lt_of_le (hdec ▸ hlt) (Nat.sub_le _ _)

/-- CALL overwrites the first entry that is not below SP. -/
theorem exec_call (h : Agree E F s s') (addr : Word) :
    Lifts (Agree E F) (exec (.call addr) s) (exec (.call addr) s') := by
  rw [Machine.exec_call, Machine.exec_call, h.sp_eq, h.pc_eq]
  split
  · exact h.fault _
  · next hsp =>
    have hinc : (s.sp + 1).val = s.sp.val + 1 := by have := Fin.val_add s.sp 1; omega
    refine .next ⟨?_, h.regs, fun k hk => ?_⟩
    · obtain ⟨v, stack, rfl⟩ := h.rest; exact ⟨v, _, rfl⟩
    · simp only [State.stackAt, Vector.getElem?_setIfInBounds]
      split
      · rfl
      · exact h.stack k (hk.imp_right fun hlt => by simp only [hinc] at hlt; omega)

end Agree

/-- An instruction keeps two states in agreement that agree on the registers R13 says it reads. -/
theorem exec_agree {E : Reg → Prop} {F : Nat → Prop} {s s' : State} (i : Instr) (h : Agree E F s s')
    (hE : ∀ r ∈ readV i, E r) : Lifts (Agree E F) (exec i s) (exec i s') := by
  have hV : ∀ r ∈ readV i, s'.getV r = s.getV r := fun r hr => h.regs r (hE r hr)
  cases i with
  | ret => exact h.exec_ret
  | call addr => exact h.exec_call addr
  | cls => exact .next (h.advance.screen _ _)
  | jp addr => exact .next (h.advance.setPc _)
  | jpV0 addr =>
    simp only [exec, execJpV0, hV 0 (by simp [readV])]
    exact .next (h.advance.setPc _)
  | seByte x kk | sneByte x kk =>
    simp only [exec, execSeByte, execSneByte, hV x (by simp [readV])]
    exact .next (h.advance.skipIf _)
  | seReg x y | sneReg x y =>
    simp only [exec, execSeReg, execSneReg, hV x (by simp [readV]), hV y (by simp [readV])]
    exact .next (h.advance.skipIf _)
  | skp x | sknp x =>
    simp only [exec, execSkp, execSknp, h.keyIndex_eq (hE x (by simp [readV])), h.keyPressed_eq]
    split
    · exact h.fault _
    · exact .next (h.advance.skipIf _)
  | ldByte x kk => exact .next (h.advance.setV x _)
  | addByte x kk =>
    simp only [exec, execAddByte, hV x (by simp [readV])]
    exact .next (h.advance.setV x _)
  | ldReg x y =>
    simp only [exec, execLdReg, hV y (by simp [readV])]
    exact .next (h.advance.setV x _)
  | orReg x y | andReg x y | xorReg x y =>
    simp only [exec, execOrReg, execAndReg, execXorReg, hV x (by simp [readV]), hV y (by simp [readV])]
    exact .next (h.advance.setV x _)
  | addReg x y | subReg x y | subnReg x y =>
    simp only [exec, execAddReg, execSubReg, execSubnReg, hV x (by simp [readV]), hV y (by simp [readV])]
    exact .next (h.advance.setVAndFlag x _ _)
  | shr x y | shl x y =>
    simp only [exec, execShr, execShl, hV x (by simp [readV])]
    exact .next (h.advance.setVAndFlag x _ _)
  | ldVxDt x =>
    simp only [exec, execLdVxDt, h.dt_eq]
    exact .next (h.advance.setV x _)
  | ldVxK x =>
    simp only [exec, execLdVxK, h.lastPressed_eq]
    split
    · exact .next h.advance
    · exact .next (h.advance.setV x _)
  | rnd x kk =>
    simp only [exec, execRnd, h.randomWord_eq]
    exact .next (h.advance.afterRandom.setV x _)
  | ldI addr => exact .next (h.advance.setI _)
  | addI x =>
    simp only [exec, execAddI, h.iReg_eq, hV x (by simp [readV])]
    exact .next (h.advance.setI _)
  | ldF x =>
    simp only [exec, execLdF, hV x (by simp [readV])]
    exact .next (h.advance.setI _)
  | ldDtVx x =>
    simp only [exec, execLdDtVx, hV x (by simp [readV])]
    exact .next (h.advance.setDt _)
  | ldStVx x =>
    simp only [exec, execLdStVx, hV x (by simp [readV])]
    exact .next (h.advance.setSt _)
  | ldB x =>
    simp only [exec, execLdB, h.reachable_eq, hV x (by simp [readV])]
    split
    · exact .next (h.advance.writeAtI _)
    · exact h.fault _
  | ldStore x =>
    simp only [exec, execLdStore, h.reachable_eq, h.regBlock_eq (x := x) fun r hr => hE r (by simpa [readV] using hr)]
    split
    · exact .next (h.advance.writeAtI _)
    · exact h.fault _
  | ldLoad x =>
    simp only [exec, execLdLoad, h.reachable_eq, h.readAtI_eq]
    split
    · exact .next (h.advance.loadRegs _ _)
    · exact h.fault _
  | drw x y n =>
    simp only [exec, execDrw, h.reachable_eq, h.fb_eq,
      h.drawnPixels_eq (hE x (by simp [readV])) (hE y (by simp [readV]))]
    split
    · split
      · exact .next ((h.advance.setV regVF _).screen _ _)
      · exact h.fault _
    · exact h.fault _

/-! ## Agreement everywhere is equality -/

/-- Two states with the same stack entries have the same stack. -/
theorem stack_ext (s t : State) (h : ∀ k, s.stackAt k = t.stackAt k) : s.stack = t.stack := by
  apply Vector.ext
  intro k hk
  simpa [State.stackAt, hk] using h k

/-- A write of a register leaves agreement on the other registers and on the whole stack. -/
theorem agree_setV (s : State) (r : Reg) (b : Byte) : Agree (· ≠ r) (fun _ => True) s (s.setV r b) :=
  ⟨⟨_, _, rfl⟩, fun q hq => getV_setV_other s r q b hq, fun _ _ => rfl⟩

/-- States in agreement on all registers but one and on the whole stack differ by a write of that register. -/
theorem Agree.exists_setV {s s' : State} {r : Reg} (h : Agree (· ≠ r) (fun _ => True) s s') : ∃ c, s' = s.setV r c := by
  have hstack : s'.stack = s.stack := stack_ext s' s fun k => h.stack k (.inl trivial)
  obtain ⟨v, stack, he⟩ := h.rest
  refine ⟨s'.getV r, state_ext_v _ _ (fun q => ?_) ?_⟩
  · rw [getV_setV]
    split
    · next hq => rw [hq]
    · next hq => exact h.regs q hq
  · subst he; rw [hstack]; rfl

/-- A write of a stack entry at or above SP leaves agreement on every register. -/
theorem agree_stale (s : State) (k : Nat) (a : Word) (h : s.sp.val ≤ k) :
    Agree (fun _ => True) (fun _ => False) s { s with stack := s.stack.setIfInBounds k a } := by
  refine ⟨⟨_, _, rfl⟩, fun _ _ => rfl, fun j hj => ?_⟩
  have hjk : k ≠ j := by have := hj.resolve_left id; omega
  simp [State.stackAt, hjk]

/-- States in agreement on every register differ in the stack alone. -/
theorem Agree.eq_withStack {F : Nat → Prop} {s s' : State} (h : Agree (fun _ => True) F s s') :
    s' = { s with stack := s'.stack } := by
  obtain ⟨v, stack, he⟩ := h.rest
  exact state_ext_v _ _ (fun q => h.regs q trivial) (by rw [he])

end Sys2Proof.Machine

namespace Sys2Proof

open Machine

/-- Settles O43: the two states agree on every register but `r`, and the instruction reads only such registers. -/
theorem unreadRegistersDoNotMatter : Obligations.UnreadRegistersDoNotMatter := by
  intro i s t r b hr ht
  have hE : ∀ q ∈ readV i, q ≠ r := fun q hq e => hr (e ▸ hq)
  obtain ⟨u, hu, h⟩ := exec_agree i (agree_setV s r b) hE t ht
  obtain ⟨c, rfl⟩ := h.exists_setV
  exact ⟨c, hu⟩

/-- Settles O44: the two states agree on every register and on the stack below SP. -/
theorem staleStackEntriesAreInvisible : Obligations.StaleStackEntriesAreInvisible := by
  intro i s t k a hk _ ht
  obtain ⟨u, hu, h⟩ := exec_agree i (agree_stale s k a hk) (fun _ _ => trivial) t ht
  exact ⟨u, hu, h.eq_withStack, fun j hj => h.stack j (.inr hj)⟩

end Sys2Proof
end

section
/-! PROOFS. The invariant's step lemmas as statements, the faults of fetch and decode with the illegal words (R18, R55,
R108), and the state after a reset (R29, R119). -/

namespace Sys2Proof.Machine

/-! ## Illegal words -/

theorem fieldOp_eq (w : Word) : fieldOp w = w.toNat / 4096 := by
  have := w.isLt
  simp only [fieldOp, field]
  omega

theorem fieldN_eq (w : Word) : fieldN w = w.toNat % 16 := by simp [fieldN, field]

theorem fieldKk_toNat (w : Word) : (fieldKk w).toNat = w.toNat % 256 := by simp [fieldKk, field]

theorem decodeFamily8_eq_unknown (x y : Reg) (n : Nat) (hn : n < 16) :
    decodeFamily8 x y n = .unknown ↔ [0x8, 0x9, 0xA, 0xB, 0xC, 0xD, 0xF].contains n = true := by
  interval_cases n <;> simp [decodeFamily8]

theorem decodeFamilyE_eq_unknown (x : Reg) (kk : Byte) :
    decodeFamilyE x kk = .unknown ↔ (kk.toNat != 0x9E && kk.toNat != 0xA1) = true := by
  unfold decodeFamilyE
  split <;> simp_all

theorem decodeFamilyF_eq_unknown (x : Reg) (kk : Byte) :
    decodeFamilyF x kk = .unknown ↔
      (!([0x07, 0x0A, 0x15, 0x18, 0x1E, 0x29, 0x33, 0x55, 0x65].contains kk.toNat)) = true := by
  unfold decodeFamilyF
  split <;> simp_all

/-- The decoder answers UNKNOWN exactly on the words R55 lists, family by family. -/
theorem decode_eq_unknown_iff (w : Word) : decode w = .unknown ↔ illegalWord w = true := by
  have hop : w.toNat / 4096 < 16 := by have := w.isLt; omega
  unfold decode illegalWord
  rw [fieldOp_eq, fieldN_eq]
  generalize w.toNat / 4096 = op at hop
  match op, hop with
  | 0, _ => by_cases h₀ : w = 0x00E0#16 <;> by_cases h₁ : w = 0x00EE#16 <;> simp [h₀, h₁]
  | 5, _ | 9, _ => by_cases h : w.toNat % 16 = 0 <;> simp [h]
  | 8, _ => exact decodeFamily8_eq_unknown _ _ _ (Nat.mod_lt _ (by decide))
  | 14, _ => rw [← fieldKk_toNat]; exact decodeFamilyE_eq_unknown _ _
  | 15, _ => rw [← fieldKk_toNat]; exact decodeFamilyF_eq_unknown _ _
  | 1, _ | 2, _ | 3, _ | 4, _ | 6, _ | 7, _ | 10, _ | 11, _ | 12, _ | 13, _ => simp
  | k + 16, hk => omega

/-- A running step whose fetch or decode fails is the fault entry of that failure (R46, R106). -/
theorem step_fetch_fails (s : State) (reason : FaultReason) (h : s.halted = false)
    (hf : s.fetchInstr = .error reason) : step s = .next (s.enterFault reason) := by
  simp [step, h, hf, raiseFault_eq]

/-! ## RESET -/

/-- Before any ROM byte every pixel is 0 (R29). -/
theorem pixel_reset (p : Nat) : State.reset.pixel p = false := pixelOf_clearedFb p

theorem getV_reset (r : Reg) : State.reset.getV r = 0 := by simp [State.getV, State.reset]

theorem stackAt_reset (k : Nat) : State.reset.stackAt k = 0 := by
  simp only [State.stackAt, State.reset, Vector.getElem?_replicate]
  split <;> rfl

theorem keyPressed_reset (k : Nat) : State.reset.keyPressed k = false := by simp [State.keyPressed, State.reset]

end Sys2Proof.Machine

namespace Sys2Proof

open Machine

/-- Settles O56, by the step lemma `step_keeps_pcBounded`. -/
theorem stepKeepsPcBounded : Obligations.StepKeepsPcBounded :=
  fun s t h ht => step_keeps_pcBounded s h t ht

/-- Settles O57, by the step lemma `step_keeps_status`. -/
theorem stepKeepsFaultRecord : Obligations.StepKeepsFaultRecord :=
  fun s t h hr ht => step_keeps_status s h hr t ht

/-- Settles O36: the fetch fails outside its range and on a word `decode_eq_unknown_iff` finds illegal, and the step is
then the fault entry. -/
theorem fetchAndDecodeFaults : Obligations.FetchAndDecodeFaults := by
  refine fun s hrun => ⟨fun hpc => ?_, fun hlo hhi w hw hill => ?_⟩
  · have hf : s.fetchInstr = .error .fetchRange := fetchInstr_out_of_range s (by omega)
    exact ⟨_, step_fetch_fails s _ hrun hf, rfl, rfl⟩
  · have hword : s.fetchWord = w := BitVec.eq_of_toNat_eq (by rw [State.fetchWord, wordOfBytes_toNat, hw])
    have hd : decode s.fetchWord = .unknown := by rw [hword]; exact (decode_eq_unknown_iff w).2 hill
    refine ⟨_, step_fetch_fails s _ hrun (fetchInstr_unknown s ⟨hlo, hhi⟩ hd), rfl, ?_⟩
    rw [← hword]; rfl

/-- Settles O53: the reset arrays read 0 everywhere, and above the font so does memory. -/
theorem resetStateHoldsTabledValues : Obligations.ResetStateHoldsTabledValues :=
  ⟨getV_reset, rfl, rfl, rfl, stackAt_reset, rfl, rfl, keyPressed_reset, pixel_reset, rfl, base_above, rfl, rfl, rfl, rfl,
    rfl⟩

/-- Settles O54, part by part of the invariant. -/
theorem resetStateMeetsInvariant : Obligations.ResetStateMeetsInvariant := by
  have hpc : State.reset.PcBounded := ⟨by decide, fun k _ => by rw [stackAt_reset]; decide⟩
  exact ⟨reset_mem_wf, hpc, ⟨rfl, fun _ => rfl⟩, fun _ h => nomatch h⟩

/-- Settles O51: memory by `read_built`, every other piece as in `State.reset`. -/
theorem resetBuildsTheTabledState : Obligations.ResetBuildsTheTabledState := by
  refine fun p rom seed s => ⟨fun hlen => ?_, fun hpos hmax => ?_⟩
  · exact if_neg (by unfold romMax; omega)
  · have hread := read_built p rom seed hmax
    refine ⟨State.built p rom seed, if_pos ⟨hpos, hmax⟩, getV_reset, rfl, rfl, rfl, stackAt_reset, rfl, rfl,
      keyPressed_reset, pixel_reset, rfl, fun a ha => ?_, fun a hlo hhi => ?_, fun k hk => ?_, fun a hlo hhi => ?_, rfl, rfl,
      rfl, rfl, rfl⟩
    · rw [hread, if_neg (by omega), if_pos ha]; simp [ha]
    · rw [hread, if_neg (by omega), if_neg (by omega), base_above a hlo]
    · rw [hread, if_pos (by omega)]; simp [hk]
    · rw [hread, if_neg (by omega), if_neg (by omega), base_above a (by omega)]

end Sys2Proof
end

section
/-! PROOFS. The canonical form of memory as a statement, and a store into code (R30, R37, R44, R84). -/

namespace Sys2Proof.Machine

/-- A store of registers whose bytes all exist writes the block at I (R35, R84). -/
theorem exec_ldStore_next (x : Reg) (s : State) (h : s.iReg.toNat + x.val ≤ 0xFFF) :
    exec (.ldStore x) s = .next (s.advance.writeAtI (s.regBlock (x.val + 1))) :=
  if_pos ((reachable_iff s (x.val + 1)).2 (.inr h))

/-- After a store of a register block, byte k of the block holds Vk (R37, R84). -/
theorem readMem_writeAtI_regBlock (x : Reg) (s : State) (k : Nat) (h : s.iReg.toNat + x.val ≤ 0xFFF) (hk : k ≤ x.val) :
    (s.advance.writeAtI (s.regBlock (x.val + 1))).readMem (s.iReg.toNat + k) = s.getV (Fin.ofNat 16 k) := by
  have hI : s.advance.iReg = s.iReg := rfl
  have hfit : s.advance.iReg.toNat + (s.regBlock (x.val + 1)).length ≤ memSize := by
    rw [hI, regBlock_length, memSize]; omega
  rw [readMem_writeAtI _ _ _ hfit, hI, regBlock_length, if_pos (by omega), Nat.add_sub_cancel_left,
    regBlock_getD s _ k (by omega)]

/-- The fetch reads the byte at pc as the high byte of its word (R38, R46). -/
theorem fetchWord_toNat (s : State) :
    s.fetchWord.toNat = (s.readMem s.pc.toNat).toNat * 256 + (s.readMem (s.pc.toNat + 1)).toNat :=
  wordOfBytes_toNat _ _

end Sys2Proof.Machine

namespace Sys2Proof

open Machine

/-- Settles O55, by the step lemma `step_keeps_memOk`. -/
theorem stepKeepsMemoryCanonical : Obligations.StepKeepsMemoryCanonical :=
  fun s t h ht => step_keeps_memOk s h t ht

/-- Settles O20: the store leaves V0 and V1 at I and I + 1, and the advanced pc is I. -/
theorem storeIntoCodeIsFetchedNext : Obligations.StoreIntoCodeIsFetchedNext := by
  intro x s hx hfit hI
  refine ⟨_, exec_ldStore_next x s hfit, ?_⟩
  have hpc : (s.advance.writeAtI (s.regBlock (x.val + 1))).pc.toNat = s.iReg.toNat := by
    change (s.pc + 2).toNat = s.iReg.toNat
    bv_omega
  have hhi := readMem_writeAtI_regBlock x s 0 hfit (Nat.zero_le _)
  have hlo := readMem_writeAtI_regBlock x s 1 hfit hx
  simp only [Nat.add_zero] at hhi
  rw [fetchWord_toNat, hpc, hhi, hlo]
  rfl

end Sys2Proof
end

section
/-! PROOFS. The decoder and the encoder are inverse on well-formed instructions (R52, R54), a word that matches a row of
the opcode map decodes to an instruction of that row, and a step runs what was decoded (R46). -/

namespace Sys2Proof.Machine

/-! ## Decoding a packed word -/

/-! The three families with a table of their own go to it (R54). -/
theorem decode_of_family8 (w : Word) (hop : fieldOp w = 0x8) :
    decode w = decodeFamily8 (fieldX w) (fieldY w) (fieldN w) := by
  simp [decode, hop]

theorem decode_of_familyE (w : Word) (hop : fieldOp w = 0xE) : decode w = decodeFamilyE (fieldX w) (fieldKk w) := by
  simp [decode, hop]

theorem decode_of_familyF (w : Word) (hop : fieldOp w = 0xF) : decode w = decodeFamilyF (fieldX w) (fieldKk w) := by
  simp [decode, hop]

theorem decode_packXyn_family8 (x y : Reg) (n : Nat) (hn : n < 16) :
    decode (packXyn 0x8 x y n) = decodeFamily8 x y n := by
  obtain ⟨hop, hx, hy, hn⟩ := fields_packXyn 0x8 x y n (by decide) hn
  rw [decode_of_family8 _ hop, hx, hy, hn]

theorem decode_packXkk_familyE (x : Reg) (kk : Byte) : decode (packXkk 0xE x kk) = decodeFamilyE x kk := by
  obtain ⟨hop, hx, hkk⟩ := fields_packXkk 0xE x kk (by decide)
  rw [decode_of_familyE _ hop, hx, hkk]

theorem decode_packXkk_familyF (x : Reg) (kk : Byte) : decode (packXkk 0xF x kk) = decodeFamilyF x kk := by
  obtain ⟨hop, hx, hkk⟩ := fields_packXkk 0xF x kk (by decide)
  rw [decode_of_familyF _ hop, hx, hkk]

/-- Decoding the word of a well-formed instruction gives it back: its fields are the operands it was packed from, and
family and sub-opcode name its arm (R52, R54). -/
theorem decode_encode (i : Instr) (h : i.wellFormed = true) : decode (encode i) = .known i := by
  cases i with
  | cls | ret => decide
  | jp addr | call addr | ldI addr | jpV0 addr =>
    have ha : addr.toNat < 4096 := of_decide_eq_true h
    simp [encode, decode, fields_packNnn, ha]
  | seByte x kk | sneByte x kk | ldByte x kk | addByte x kk | rnd x kk => simp [encode, decode, fields_packXkk]
  | seReg x y | sneReg x y => simp [encode, decode, fields_packXyn]
  | drw x y n =>
    have hn : n < 16 := of_decide_eq_true h
    simp [encode, decode, fields_packXyn, hn]
  | ldReg x y | orReg x y | andReg x y | xorReg x y | addReg x y | subReg x y | shr x y | subnReg x y | shl x y =>
    exact decode_packXyn_family8 x y _ (by decide)
  | skp x | sknp x => exact decode_packXkk_familyE x _
  | ldVxDt x | ldVxK x | ldDtVx x | ldStVx x | addI x | ldF x | ldB x | ldStore x | ldLoad x =>
    exact decode_packXkk_familyF x _

/-! ## Packing the fields of a word -/

theorem fieldX_val (w : Word) : (fieldX w).val = w.toNat / 256 % 16 := by simp [fieldX, field]

theorem fieldY_val (w : Word) : (fieldY w).val = w.toNat / 16 % 16 := by simp [fieldY, field]

theorem fieldNnn_toNat (w : Word) : (fieldNnn w).toNat = w.toNat % 4096 := by
  simp only [fieldNnn, field, BitVec.toNat_ofNat]
  omega

/-! A word is packed from its own fields, in each format (R48, R49). -/

theorem packNnn_fields (w : Word) (op : Nat) (hop : fieldOp w = op) : packNnn op (fieldNnn w) = w := by
  apply BitVec.eq_of_toNat_eq
  rw [packNnn, BitVec.toNat_ofNat, fieldNnn_toNat, ← hop, fieldOp_eq]
  omega

theorem packXkk_fields (w : Word) (op : Nat) (hop : fieldOp w = op) : packXkk op (fieldX w) (fieldKk w) = w := by
  apply BitVec.eq_of_toNat_eq
  rw [packXkk, BitVec.toNat_ofNat, fieldX_val, fieldKk_toNat, ← hop, fieldOp_eq]
  omega

/-- The same where the immediate is known as a number, as the families E and F know it. -/
theorem packXkk_fieldX (w : Word) (op k : Nat) (hop : fieldOp w = op) (hk : (fieldKk w).toNat = k) :
    packXkk op (fieldX w) (BitVec.ofNat 8 k) = w := by
  rw [← hk, BitVec.ofNat_toNat, BitVec.setWidth_eq]
  exact packXkk_fields w op hop

theorem packXyn_fields (w : Word) (op n : Nat) (hop : fieldOp w = op) (hn : fieldN w = n) :
    packXyn op (fieldX w) (fieldY w) n = w := by
  apply BitVec.eq_of_toNat_eq
  rw [packXyn, BitVec.toNat_ofNat, fieldX_val, fieldY_val, ← hn, fieldN_eq, ← hop, fieldOp_eq]
  omega

/-! ## The word of a decoded instruction -/

theorem encode_of_decodeFamily8 (w : Word) (i : Instr) (hop : fieldOp w = 0x8)
    (h : decodeFamily8 (fieldX w) (fieldY w) (fieldN w) = .known i) : encode i = w := by
  unfold decodeFamily8 at h
  split at h <;> cases h
  all_goals exact packXyn_fields w 0x8 _ hop ‹_›

theorem encode_of_decodeFamilyE (w : Word) (i : Instr) (hop : fieldOp w = 0xE)
    (h : decodeFamilyE (fieldX w) (fieldKk w) = .known i) : encode i = w := by
  unfold decodeFamilyE at h
  split at h <;> cases h
  all_goals exact packXkk_fieldX w 0xE _ hop ‹_›

theorem encode_of_decodeFamilyF (w : Word) (i : Instr) (hop : fieldOp w = 0xF)
    (h : decodeFamilyF (fieldX w) (fieldKk w) = .known i) : encode i = w := by
  unfold decodeFamilyF at h
  split at h <;> cases h
  all_goals exact packXkk_fieldX w 0xF _ hop ‹_›

/-- The word of the instruction decode answers is the word it was given, family by family (R52, R54). -/
theorem encode_of_decode (w : Word) (i : Instr) (h : decode w = .known i) : encode i = w := by
  unfold decode at h
  split at h
  case h_1 =>
    split at h
    · cases h; exact Eq.symm ‹_›
    · split at h <;> cases h; exact Eq.symm ‹_›
  case h_2 hop | h_3 hop | h_11 hop | h_12 hop => cases h; exact packNnn_fields w _ hop
  case h_4 hop | h_5 hop | h_7 hop | h_8 hop | h_13 hop => cases h; exact packXkk_fields w _ hop
  case h_6 hop | h_10 hop =>
    split at h <;> cases h
    exact packXyn_fields w _ 0 hop ‹fieldN w = 0›
  case h_9 hop => exact encode_of_decodeFamily8 w i hop h
  case h_14 hop => cases h; exact packXyn_fields w _ _ hop rfl
  case h_15 hop => exact encode_of_decodeFamilyE w i hop h
  case h_16 hop => exact encode_of_decodeFamilyF w i hop h
  case h_17 => cases h

/-! ## The rows of the opcode map -/

theorem row_mem_opcodeMap (i : Instr) : i.row ∈ opcodeMap := by
  cases i <;> exact List.mem_of_elem_eq_true rfl

/-- The encoded word of every well-formed instruction matches its row: the per-instruction family, taken together. -/
theorem row_matches_encode (i : Instr) : Laws.MatchesRow.Statement i := by
  open Laws.MatchesRow in
  exact match i with
  | .cls => cls | .ret => ret | .jp a => jp a | .call a => call a | .seByte x kk => seByte x kk
  | .sneByte x kk => sneByte x kk | .seReg x y => seReg x y | .ldByte x kk => ldByte x kk
  | .addByte x kk => addByte x kk | .ldReg x y => ldReg x y | .orReg x y => orReg x y | .andReg x y => andReg x y
  | .xorReg x y => xorReg x y | .addReg x y => addReg x y | .subReg x y => subReg x y | .shr x y => shr x y
  | .subnReg x y => subnReg x y | .shl x y => shl x y | .sneReg x y => sneReg x y | .ldI a => ldI a | .jpV0 a => jpV0 a
  | .rnd x kk => rnd x kk | .drw x y n => drw x y n | .skp x => skp x | .sknp x => sknp x | .ldVxDt x => ldVxDt x
  | .ldVxK x => ldVxK x | .ldDtVx x => ldDtVx x | .ldStVx x => ldStVx x | .addI x => addI x | .ldF x => ldF x
  | .ldB x => ldB x | .ldStore x => ldStore x | .ldLoad x => ldLoad x

/-- `w` decodes to an instruction of the row `r`. -/
def DecodesToRow (w : Word) (r : OpRow) : Prop := ∃ i, decode w = .known i ∧ i.row = r

/-- The row of a family whose other bits are all operands, as `matchesWord_op` writes it (R52). -/
def opRow (k : Nat) : OpRow := (BitVec.ofNat 16 (k * 2 ^ 12), 0xF000)

/-- The row of a family and a sub-opcode `n`, as `matchesWord_opN` writes it (R52). -/
def opNRow (k n : Nat) : OpRow := (BitVec.ofNat 16 (k * 2 ^ 12) ||| BitVec.ofNat 16 n, 0xF00F)

/-- The row of a family and a sub-opcode `kk`, as `matchesWord_opKk` writes it (R52). -/
def opKkRow (k : Nat) (kk : Byte) : OpRow := (BitVec.ofNat 16 (k * 2 ^ 12) ||| kk.setWidth 16, 0xF0FF)

/-- The opcode map by the format of its rows (R51, R52). -/
theorem opcodeMap_subset_formats : opcodeMap ⊆
    [(0x00E0, 0xFFFF), (0x00EE, 0xFFFF)] ++ [1, 2, 3, 4, 6, 7, 10, 11, 12, 13].map opRow ++
      [5, 9].map (opNRow · 0) ++ [0, 1, 2, 3, 4, 5, 6, 7, 14].map (opNRow 8) ++ [0x9E, 0xA1].map (opKkRow 14) ++
      [0x07, 0x0A, 0x15, 0x18, 0x1E, 0x29, 0x33, 0x55, 0x65].map (opKkRow 15) := by
  decide

/-- A word matches a row of the full mask only if it is the row's pattern. -/
theorem eq_of_matchesWord_full (w p : Word) (h : OpRow.matchesWord (p, 0xFFFF) w = true) : w = p := by
  have hw : w &&& BitVec.allOnes 16 = p := eq_of_beq h
  rwa [BitVec.and_allOnes] at hw

/-- A word that matches a row of the map decodes to an instruction of that row: the match fixes the fields that decode
chooses by (R54). -/
theorem decodesToRow_of_matches (w : Word) (r : OpRow) (hr : r ∈ opcodeMap) (hm : r.matchesWord w = true) :
    DecodesToRow w r := by
  have hf := opcodeMap_subset_formats hr
  simp only [List.mem_append, List.mem_map, or_assoc] at hf
  rcases hf with hfull | ⟨k, hk, rfl⟩ | ⟨k, hk, rfl⟩ | ⟨n, hn, rfl⟩ | ⟨kk, hkk, rfl⟩ | ⟨kk, hkk, rfl⟩
  · fin_cases hfull <;> rw [eq_of_matchesWord_full _ _ hm]
    · exact ⟨.cls, by decide, rfl⟩
    · exact ⟨.ret, by decide, rfl⟩
  · have hop := (matchesWord_op w k (by fin_cases hk <;> decide)).1 hm
    fin_cases hk <;> simp [DecodesToRow, decode, hop, opRow, Instr.row]
  · obtain ⟨hop, hzero⟩ := (matchesWord_opN w k 0 (by fin_cases hk <;> decide) (by decide)).1 hm
    fin_cases hk <;> simp [DecodesToRow, decode, hop, hzero, opNRow, Instr.row]
  · obtain ⟨hop, hsub⟩ := (matchesWord_opN w 8 n (by decide) (by fin_cases hn <;> decide)).1 hm
    rw [DecodesToRow, decode_of_family8 w hop, hsub]
    fin_cases hn <;> exact ⟨_, rfl, rfl⟩
  · obtain ⟨hop, hsub⟩ := (matchesWord_opKk w 14 kk (by decide)).1 hm
    rw [DecodesToRow, decode_of_familyE w hop, hsub]
    fin_cases hkk <;> exact ⟨_, rfl, rfl⟩
  · obtain ⟨hop, hsub⟩ := (matchesWord_opKk w 15 kk (by decide)).1 hm
    rw [DecodesToRow, decode_of_familyF w hop, hsub]
    fin_cases hkk <;> exact ⟨_, rfl, rfl⟩

/-- No two different rows of the map match one word: the word decodes to one instruction, of one row. -/
theorem row_unique (w : Word) (r q : OpRow) (hr : r ∈ opcodeMap) (hq : q ∈ opcodeMap) (hrw : r.matchesWord w = true)
    (hqw : q.matchesWord w = true) : r = q := by
  obtain ⟨i, hi, rfl⟩ := decodesToRow_of_matches w r hr hrw
  obtain ⟨j, hj, rfl⟩ := decodesToRow_of_matches w q hq hqw
  cases hi.symm.trans hj
  rfl

/-- The row of the instruction decode answers matches the word (R54). -/
theorem row_matches_of_decode (w : Word) (i : Instr) (h : decode w = .known i) : i.row.matchesWord w = true := by
  have hm := row_matches_encode i (decode_wellFormed w i h)
  rwa [encode_of_decode w i h] at hm

/-- decode answers UNKNOWN exactly when no row of the map matches (R54). -/
theorem decode_eq_unknown_iff_no_row (w : Word) :
    decode w = .unknown ↔ ∀ r ∈ opcodeMap, r.matchesWord w = false := by
  constructor
  · intro hd r hr
    by_contra hm
    obtain ⟨i, hi, -⟩ := decodesToRow_of_matches w r hr (Bool.eq_true_of_not_eq_false hm)
    cases hd.symm.trans hi
  · intro hnone
    cases hd : decode w with
    | unknown => rfl
    | known i =>
      have hm := row_matches_of_decode w i hd
      rw [hnone _ (row_mem_opcodeMap i)] at hm
      cases hm

/-! ## The step -/

/-- A running step that fetches an instruction ends the cycle on what the instruction answers (R46). -/
theorem step_fetch_ok (s : State) (i : Instr) (h : s.halted = false) (hf : s.fetchInstr = .ok i) :
    step s = finishCycle (exec i s) := by
  simp [step, h, hf]

theorem exec_next (i : Instr) (s : State) : ∃ t, exec i s = .next t := by
  rcases exec_runs_or_faults i s with ⟨t, ht, -⟩ | ⟨reason, ht, -⟩
  · exact ⟨t, ht⟩
  · exact ⟨_, ht⟩

end Sys2Proof.Machine

namespace Sys2Proof

open Machine

/-- Settles O46, by `decode_encode`. -/
theorem decodeOfEncodeIsTheInstruction : Obligations.DecodeOfEncodeIsTheInstruction := decode_encode

/-- Settles O47: the instruction decode answers encodes to the word, so its row matches; and a word some row matches
decodes to an instruction. -/
theorem decodeFollowsTheOpcodeMap : Obligations.DecodeFollowsTheOpcodeMap := fun w =>
  ⟨fun i h => ⟨row_mem_opcodeMap i, row_matches_of_decode w i h, decode_wellFormed w i h, encode_of_decode w i h⟩,
    decode_eq_unknown_iff_no_row w⟩

/-- Settles O48: the 34 rows are different, and rows that match one word are equal. -/
theorem opcodeMapRowsAreDisjoint : Obligations.OpcodeMapRowsAreDisjoint := by
  have hnodup : opcodeMap.Nodup := by decide
  refine ⟨rfl, hnodup.imp_of_mem fun hr hq hne w ⟨hrw, hqw⟩ => hne ?_⟩
  exact row_unique w _ _ hr hq hrw hqw

/-- Settles O49, by `decode_eq_unknown_iff`. -/
theorem illegalWordsAsListed : Obligations.IllegalWordsAsListed := decode_eq_unknown_iff

/-- Settles O35: the fetch gives the decoded instruction, and the cycle ends with the tick unless it faulted. -/
theorem stepRunsTheDecodedInstruction : Obligations.StepRunsTheDecodedInstruction := by
  intro s i w hrun hlo hhi hw hd
  have hword : s.fetchWord = w := BitVec.eq_of_toNat_eq ((fetchWord_toNat s).trans hw.symm)
  have hf : s.fetchInstr = .ok i := fetchInstr_known s i ⟨hlo, hhi⟩ (by rw [hword]; exact hd)
  refine ⟨decode_wellFormed w i hd, fun t ht => ?_, exec_next i s⟩
  rw [step_fetch_ok s i hrun hf, ht]
  rfl

/-- Settles O50: each word's fields and arm, by evaluation of the decoder. -/
theorem sourceWordsDecode : Obligations.SourceWordsDecode := by
  unfold Obligations.SourceWordsDecode
  decide

end Sys2Proof
end

section
/-! PROOFS. The control flow instructions (R59 to R67): what a CALL and a RET answer, where a skip leaves pc, and the
words of each. -/

namespace Sys2Proof.Machine

/-! ## Words -/

/-- The word a well-formed instruction is encoded as is its encoding in both directions (R52, R54). -/
theorem encodes_of_encode (w : Word) (i : Instr) (hi : i.wellFormed = true) (hw : encode i = w) : Encodes w i :=
  ⟨hw ▸ decode_encode i hi, hw⟩

/-- The word that decodes to an instruction is the only one (R52). -/
theorem eq_encode_of_decode (i : Instr) (w : Word) (h : decode w = .known i) : w = encode i :=
  (encode_of_decode w i h).symm

/-! ## Skips -/

/-- A skip on equality (R64, R66). -/
theorem skipIf_beq_pc (s : State) (a b : Byte) :
    (s.advance.skipIf (a == b)).pc = if a = b then s.pc + 4 else s.pc + 2 := by
  simp only [skipIf_advance_pc, beq_iff_eq]

/-- A skip on difference (R65, R67). -/
theorem skipIf_bne_pc (s : State) (a b : Byte) :
    (s.advance.skipIf (a != b)).pc = if a = b then s.pc + 2 else s.pc + 4 := by
  simp only [skipIf_advance_pc, bne_iff_ne, ite_not]

/-! ## The stack instructions -/

/-- Everything but the call stack and pc. -/
abbrev SameButStackAndPc (s t : State) : Prop :=
  SameV [] s t ∧ SameI s t ∧ SameTimers s t ∧ SameScreen s t ∧ SameMem s t ∧ SameRandom s t ∧ SameInputs s t ∧
    SameStatus s t

theorem sameButStackAndPc_update (s : State) (stack : Vector Word 15) (sp : Fin 16) (pc : Word) :
    SameButStackAndPc s { s with stack := stack, sp := sp, pc := pc } :=
  ⟨fun _ _ => rfl, rfl, ⟨rfl, rfl⟩, ⟨fun _ => rfl, rfl⟩, fun _ => rfl, ⟨rfl, rfl⟩, ⟨rfl, rfl⟩, rfl, rfl, rfl⟩

/-- CALL with room on the stack (R62). -/
theorem exec_call_room (addr : Word) (s : State) (h : s.sp.val < 15) :
    ∃ t, exec (.call addr) s = .next t ∧ t.sp.val = s.sp.val + 1 ∧ t.pc = addr ∧
      (∀ k, t.stackAt k = if k = s.sp.val then s.pc + 2 else s.stackAt k) ∧ SameButStackAndPc s t := by
  obtain ⟨u, hpush, hu, hsp, hstack⟩ := push_spec s.advance s.advance.pc h
  refine ⟨u.setPc addr, by simp only [exec, execCall, hpush], hsp, rfl, hstack, ?_⟩
  rw [hu]
  exact sameButStackAndPc_update s _ _ addr

/-- CALL on a full stack (R62, R106). -/
theorem exec_call_full (addr : Word) (s : State) (h : s.sp.val = 15) :
    exec (.call addr) s = .next (s.enterFault .stackOverflow) := by
  rw [exec_call, if_pos h, raiseFault_eq]

/-- RET on a stack that is not empty (R60). -/
theorem exec_ret_held (s : State) (h : 0 < s.sp.val) :
    ∃ t, exec .ret s = .next t ∧ t.sp.val = s.sp.val - 1 ∧ t.pc = s.stackAt (s.sp.val - 1) ∧
      (∀ k, t.stackAt k = s.stackAt k) ∧ SameButStackAndPc s t := by
  obtain ⟨u, hpop, hu, hsp⟩ := pop_spec s.advance h
  refine ⟨u.setPc (s.stackAt (s.sp.val - 1)), by simp only [exec, execRet, hpop]; rfl, hsp, rfl, ?_, ?_⟩
  · rw [hu]
    exact fun _ => rfl
  · rw [hu]
    exact sameButStackAndPc_update s _ _ _

/-- RET on an empty stack (R60, R106). -/
theorem exec_ret_empty (s : State) (h : s.sp.val = 0) : exec .ret s = .next (s.enterFault .stackUnderflow) := by
  rw [exec_ret, if_pos h, raiseFault_eq]

end Sys2Proof.Machine

namespace Sys2Proof

open Machine

/-- Settles O45: the CALL leaves its return address just below its SP, which is the entry the RET pops. -/
theorem callThenRetReturns : Obligations.CallThenRetReturns := by
  intro addr s h
  obtain ⟨t, ht, hsp, -, hstack, -⟩ := exec_call_room addr s h
  refine ⟨t, ht, fun s' ⟨hsp', hstack'⟩ => ?_⟩
  have hdepth : s'.sp.val = s.sp.val + 1 := by rw [hsp', hsp]
  obtain ⟨u, hu, husp, hupc, -⟩ := exec_ret_held s' (by omega)
  have hbelow : s'.sp.val - 1 = s.sp.val := by omega
  refine ⟨u, hu, ?_, Fin.ext (husp.trans hbelow)⟩
  rw [hupc, hbelow, hstack', hstack, if_pos rfl]

/-- Settles O1: the new framebuffer reads 0 at every pixel, and the rest is the advance of the fetch. -/
theorem clsClearsTheScreen : Obligations.ClsClearsTheScreen := by
  refine ⟨encodes_of_encode _ .cls rfl rfl, eq_encode_of_decode .cls, fun s => ?_⟩
  obtain ⟨hv, hi, hstack, htimers, -, hrest⟩ := sameButPc_advance s
  exact ⟨_, rfl, pixelOf_clearedFb, rfl, rfl, hv, hi, hstack, htimers, hrest⟩

/-- Settles O2, by `exec_ret_empty` and `exec_ret_held`. -/
theorem retPopsTheReturnAddress : Obligations.RetPopsTheReturnAddress := by
  refine ⟨encodes_of_encode _ .ret rfl rfl, eq_encode_of_decode .ret, fun s => ⟨fun h => ?_, exec_ret_held s⟩⟩
  exact ⟨_, exec_ret_empty s h, enterFault_faultedFrom s _⟩

/-- Settles O3, by `exec_call_full` and `exec_call_room`. -/
theorem callPushesAndJumps : Obligations.CallPushesAndJumps := by
  refine ⟨fun addr ha => encodes_of_encode _ (.call addr) (decide_eq_true ha) rfl,
    fun addr s => ⟨fun h => ?_, fun h => ?_⟩⟩
  · exact ⟨_, exec_call_full addr s h, enterFault_faultedFrom s _⟩
  · obtain ⟨t, ht, hsp, hpc, hstack, hsame⟩ := exec_call_room addr s h
    refine ⟨t, ht, hsp, hpc, ?_, fun k hk => ?_, hsame⟩
    · rw [hstack, if_pos rfl]
    · rw [hstack, if_neg hk]

/-- Settles O4, by `sameButPc_jump`. -/
theorem jumpLoadsPc : Obligations.JumpLoadsPc :=
  ⟨fun addr ha => encodes_of_encode _ (.jp addr) (decide_eq_true ha) rfl,
    fun addr s => ⟨_, rfl, rfl, sameButPc_jump s addr⟩⟩

/-- Settles O5: a 12-bit address and a byte add to less than 2^16, so the sum of the words does not wrap. -/
theorem jumpV0AddsWithoutWrap : Obligations.JumpV0AddsWithoutWrap := by
  refine ⟨fun addr ha => encodes_of_encode _ (.jpV0 addr) (decide_eq_true ha) rfl, fun addr s ha => ?_⟩
  have hsum : (addr + (s.getV 0).setWidth 16).toNat = addr.toNat + (s.getV 0).toNat := by bv_omega
  exact ⟨_, rfl, hsum, sameButPc_jump s _⟩

/-- Settles O6: both skip on a comparison of Vx with kk. -/
theorem skipOnByte : Obligations.SkipOnByte := fun x kk =>
  ⟨encodes_of_encode _ (.seByte x kk) rfl rfl, encodes_of_encode _ (.sneByte x kk) rfl rfl, fun s =>
    ⟨⟨_, rfl, skipIf_beq_pc s (s.getV x) kk, sameButPc_skipIf s _⟩,
      ⟨_, rfl, skipIf_bne_pc s (s.getV x) kk, sameButPc_skipIf s _⟩⟩⟩

/-- Settles O7: both skip on a comparison of Vx with Vy. -/
theorem skipOnRegisters : Obligations.SkipOnRegisters := fun x y =>
  ⟨encodes_of_encode _ (.seReg x y) rfl rfl, encodes_of_encode _ (.sneReg x y) rfl rfl, fun s =>
    ⟨⟨_, rfl, skipIf_beq_pc s (s.getV x) (s.getV y), sameButPc_skipIf s _⟩,
      ⟨_, rfl, skipIf_bne_pc s (s.getV x) (s.getV y), sameButPc_skipIf s _⟩⟩⟩

end Sys2Proof
end

section
/-! PROOFS. The register and immediate instructions (R68 to R73): the words of family 8 with their sub-opcode, the sum
modulo 256, and the answer of each instruction. -/

namespace Sys2Proof.Machine

/-- A word of the format `op x y n` is its pattern, with `op` and `n` fixed, and x and y in their places (R48, R52). -/
theorem packXyn_eq_wordXy (op n : Nat) (x y : Reg) : packXyn op x y n = wordXy (op * 4096 + n) x y := by
  rw [packXyn, wordXy]
  congr 1
  omega

/-- The sum of two bytes is kept modulo 256 (R69, R75). -/
theorem addResult_toNat (a b : Byte) : (addResult a b).toNat = (a.toNat + b.toNat) % 256 := BitVec.toNat_ofNat _ 8

end Sys2Proof.Machine

namespace Sys2Proof

open Machine

/-- Settles O8: each answers the advance with its source in Vx. -/
theorem loadByteAndCopyRegister : Obligations.LoadByteAndCopyRegister := by
  refine ⟨fun x kk => ⟨encodes_of_encode _ (.ldByte x kk) rfl rfl, fun s => ?_⟩,
    fun x y => ⟨encodes_of_encode _ (.ldReg x y) rfl rfl, fun s => ?_⟩⟩
  · exact ⟨_, rfl, getV_setV_same _ x kk, rfl, sameButV_setV s x kk⟩
  · exact ⟨_, rfl, getV_setV_same _ x (s.getV y), rfl, sameButV_setV s x _⟩

/-- Settles O9: the advance with the wrapped sum in Vx, and VF is among the registers kept unless it is Vx. -/
theorem addByteWrapsWithoutFlag : Obligations.AddByteWrapsWithoutFlag := by
  refine fun x kk => ⟨encodes_of_encode _ (.addByte x kk) rfl rfl, fun s => ⟨_, rfl, ?_, rfl, sameButV_setV s x _⟩⟩
  rw [getV_setV_same, addResult_toNat]

/-- Settles O10: each answers the advance with the combined byte in Vx, whose bits are the combined bits. -/
theorem bitwiseOperations : Obligations.BitwiseOperations := by
  refine fun x y => ⟨encodes_of_encode _ (.orReg x y) rfl (packXyn_eq_wordXy 8 1 x y),
    encodes_of_encode _ (.andReg x y) rfl (packXyn_eq_wordXy 8 2 x y),
    encodes_of_encode _ (.xorReg x y) rfl (packXyn_eq_wordXy 8 3 x y), fun s =>
      ⟨⟨_, rfl, fun b => ?_, rfl, sameButV_setV s x _⟩, ⟨_, rfl, fun b => ?_, rfl, sameButV_setV s x _⟩,
        ⟨_, rfl, fun b => ?_, rfl, sameButV_setV s x _⟩⟩⟩
  · rw [getV_setV_same, BitVec.getLsbD_or]
  · rw [getV_setV_same, BitVec.getLsbD_and]
  · rw [getV_setV_same, BitVec.getLsbD_xor]

end Sys2Proof
end

section
/-! PROOFS. The arithmetic instructions with flags (R74 to R79): the results and the flags as numbers, and what the two
writes `V[x] <- result; V[15] <- flag` leave (R47). -/

namespace Sys2Proof.Machine

/-! ## Results and flags -/

/-- A byte difference over exact integers: no borrow, or 256 added (R74, R76). -/
theorem subResult_toNat (a b : Byte) :
    (subResult a b).toNat = if b.toNat ≤ a.toNat then a.toNat - b.toNat else a.toNat + 256 - b.toNat := by
  have ha := a.isLt
  rw [subResult, BitVec.toNat_ofNat]
  split <;> omega

theorem addCarry_eq (a b : Byte) : addCarry a b = if 255 < a.toNat + b.toNat then 1 else 0 := by
  simp only [addCarry, boolByte, decide_eq_true_eq]

theorem subNoBorrow_eq (a b : Byte) : subNoBorrow a b = if b.toNat < a.toNat then 1 else 0 := by
  simp only [subNoBorrow, boolByte, decide_eq_true_eq]

theorem shrResult_toNat (v : Byte) : (shrResult v).toNat = v.toNat / 2 := by
  rw [shrResult, BitVec.toNat_ushiftRight, Nat.shiftRight_eq_div_pow, pow_one]

/-- The bit a right shift loses is the remainder of the halving (R77). -/
theorem shrOut_toNat (v : Byte) : (shrOut v).toNat = v.toNat % 2 := by
  rw [shrOut, BitVec.toNat_and]
  exact Nat.and_one_is_mod v.toNat

theorem shlResult_toNat (v : Byte) : (shlResult v).toNat = 2 * v.toNat % 256 := by
  rw [shlResult, BitVec.toNat_shiftLeft, Nat.shiftLeft_eq, pow_one, mul_comm]

/-- The bit a left shift loses is the high bit (R79). -/
theorem shlOut_toNat (v : Byte) : (shlOut v).toNat = v.toNat / 128 := by
  rw [shlOut, BitVec.toNat_ushiftRight, Nat.shiftRight_eq_div_pow]

/-! ## The two writes -/

/-- The flag is written last, so VF ends holding it, x = 15 included (R47). -/
theorem getV_setVAndFlag_flag (s : State) (x : Reg) (result flag : Byte) :
    (s.setVAndFlag x result flag).getV regVF = flag := getV_setV_same _ _ _

/-- Vx keeps the result unless it is VF (R47). -/
theorem getV_setVAndFlag_result (s : State) (x : Reg) (result flag : Byte) (hx : x ≠ regVF) :
    (s.setVAndFlag x result flag).getV x = result := by
  rw [getV_setVAndFlag, if_neg hx, if_pos rfl]

/-- The one answer that the five flag-setting instructions share: a fact about the computed result passes to Vx, one
about the computed flag to VF, and everything but these and pc is kept (R17, R47). -/
theorem next_setVAndFlag (s : State) (x : Reg) {result flag : Byte} {n : Nat} (Q : Byte → Prop)
    (hresult : result.toNat = n) (hflag : Q flag) :
    ∃ t, (.next (s.advance.setVAndFlag x result flag) : Host.Outcome State Fault Refusal) = .next t ∧
      (x ≠ regVF → (t.getV x).toNat = n) ∧ Q (t.getV regVF) ∧ t.pc = s.pc + 2 ∧ SameButV [x, regVF] s t := by
  refine ⟨_, rfl, fun hx => ?_, ?_, rfl, sameButV_setVAndFlag s x _ _⟩
  · rw [getV_setVAndFlag_result _ _ _ _ hx, hresult]
  · rwa [getV_setVAndFlag_flag]

end Sys2Proof.Machine

namespace Sys2Proof

open Machine

/-- Settles O11: the sum modulo 256, and the carry of the exact sum. -/
theorem addSetsCarry : Obligations.AddSetsCarry := fun x y =>
  ⟨encodes_of_encode _ (.addReg x y) rfl (packXyn_eq_wordXy 8 4 x y), fun s =>
    next_setVAndFlag s x (· = _) (addResult_toNat _ _) (addCarry_eq _ _)⟩

/-- Settles O12: the difference Vx - Vy modulo 256, and its no-borrow flag. -/
theorem subSetsNoBorrow : Obligations.SubSetsNoBorrow := fun x y =>
  ⟨encodes_of_encode _ (.subReg x y) rfl (packXyn_eq_wordXy 8 5 x y), fun s =>
    next_setVAndFlag s x (· = _) (subResult_toNat _ _) (subNoBorrow_eq _ _)⟩

/-- Settles O13: as SUB, with the operands exchanged. -/
theorem subnSetsNoBorrow : Obligations.SubnSetsNoBorrow := fun x y =>
  ⟨encodes_of_encode _ (.subnReg x y) rfl (packXyn_eq_wordXy 8 7 x y), fun s =>
    next_setVAndFlag s x (· = _) (subResult_toNat _ _) (subNoBorrow_eq _ _)⟩

/-- Settles O14: the half and the remainder of Vx, neither of which names y. -/
theorem shrShiftsOutBitZero : Obligations.ShrShiftsOutBitZero := fun x y =>
  ⟨encodes_of_encode _ (.shr x y) rfl (packXyn_eq_wordXy 8 6 x y), fun s =>
    next_setVAndFlag s x (·.toNat = _) (shrResult_toNat _) (shrOut_toNat _)⟩

/-- Settles O15: the double and the high bit of Vx, neither of which names y. -/
theorem shlShiftsOutBitSeven : Obligations.ShlShiftsOutBitSeven := fun x y =>
  ⟨encodes_of_encode _ (.shl x y) rfl (packXyn_eq_wordXy 8 0xE x y), fun s =>
    next_setVAndFlag s x (·.toNat = _) (shlResult_toNat _) (shlOut_toNat _)⟩

end Sys2Proof
end

section
/-! PROOFS. The index register and memory instructions (R80 to R85): their words, the one range check of the three that
reach memory (R35), what a store leaves in memory and what a load leaves in the registers. -/

namespace Sys2Proof.Machine

/-! ## Words -/

/-- A word of the format `op x kk` is its pattern, with `op` and `kk` fixed, and x in its place (R48, R52). -/
theorem packXkk_eq_wordX (op : Nat) (x : Reg) (kk : Byte) : packXkk op x kk = wordX (op * 4096 + kk.toNat) x := by
  rw [packXkk, wordX]
  congr 1
  omega

/-! ## Writes of I -/

/-- Everything but the index register and pc. -/
abbrev SameButIAndPc (s t : State) : Prop :=
  SameV [] s t ∧ SameStack s t ∧ SameTimers s t ∧ SameScreen s t ∧ SameMem s t ∧ SameRandom s t ∧ SameInputs s t ∧
    SameStatus s t

/-- The one answer that the three writers of I share: a fact about the new value passes to I, and everything but I
and pc is kept (R10, R16). -/
theorem next_setI (s : State) {a : Word} (Q : Word → Prop) (ha : Q a) :
    ∃ t, (.next (s.advance.setI a) : Host.Outcome State Fault Refusal) = .next t ∧ Q t.iReg ∧ t.pc = s.pc + 2 ∧
      SameButIAndPc s t := by
  obtain ⟨hv, -, hrest⟩ := sameButPc_advance s
  exact ⟨_, rfl, ha, rfl, hv, hrest⟩

/-- A glyph address does not wrap: it is at most 255 * 5 (R82). -/
theorem glyphAddress_toNat (v : Byte) : (glyphAddress v).toNat = v.toNat * 5 := by
  rw [glyphAddress, BitVec.toNat_ofNat]
  omega

/-! ## The range check -/

/-- An instruction that checks its access of the bytes from I to I + k first faults when the last one does not exist,
whatever it would go on to do (R35, R106). -/
theorem checked_access_faults (s : State) (k : Nat) {o : Host.Outcome State Fault Refusal}
    (h : 0xFFF < s.iReg.toNat + k) :
    ∃ t, (if s.reachable (k + 1) then o else raiseFault .memRange s) = .next t ∧ FaultedFrom .memRange s t := by
  have hout : ¬ s.reachable (k + 1) = true := by
    rw [reachable_iff]
    omega
  exact ⟨_, (if_neg hout).trans (raiseFault_eq _ s), enterFault_faultedFrom s _⟩

/-- A store of digits whose bytes all exist writes them at I (R35, R83). -/
theorem exec_ldB_next (x : Reg) (s : State) (h : s.iReg.toNat + 2 ≤ 0xFFF) :
    exec (.ldB x) s = .next (s.advance.writeAtI (decimalDigits (s.getV x))) :=
  if_pos ((reachable_iff s 3).2 (.inr h))

/-- A load of registers whose bytes all exist loads the block at I (R35, R85). -/
theorem exec_ldLoad_next (x : Reg) (s : State) (h : s.iReg.toNat + x.val ≤ 0xFFF) :
    exec (.ldLoad x) s = .next (s.advance.loadRegs (s.readAtI (x.val + 1)) (x.val + 1)) :=
  if_pos ((reachable_iff s (x.val + 1)).2 (.inr h))

/-! ## Stores at I -/

/-- Everything but memory and pc. -/
abbrev SameButMemAndPc (s t : State) : Prop :=
  SameV [] s t ∧ SameI s t ∧ SameStack s t ∧ SameTimers s t ∧ SameScreen s t ∧ SameRandom s t ∧ SameInputs s t ∧
    SameStatus s t

/-- A store at I changes memory and pc alone (R37). -/
theorem sameButMemAndPc_writeAtI (s : State) (bytes : List Byte) :
    SameButMemAndPc s (s.advance.writeAtI bytes) := by
  obtain ⟨hv, hi, hstack, htimers, hscreen, -, hrest⟩ := sameButPc_advance s
  exact ⟨hv, hi, hstack, htimers, hscreen, hrest⟩

/-- A store at I changes no byte outside the addresses it writes (R37). -/
theorem sameMemOutside_writeAtI (s : State) (bytes : List Byte) (h : s.iReg.toNat + bytes.length ≤ memSize) :
    SameMemOutside s.iReg.toNat bytes.length s (s.advance.writeAtI bytes) := by
  intro b hb
  rw [readMem_writeAtI s.advance bytes _ h, advance_iReg, if_neg (by omega), readMem_advance]

/-- After a store at I, the byte at I + k is byte k of what was stored (R37). -/
theorem readMem_writeAtI_offset (s : State) (bytes : List Byte) (k : Nat)
    (h : s.iReg.toNat + bytes.length ≤ memSize) (hk : k < bytes.length) :
    (s.advance.writeAtI bytes).readMem (s.iReg.toNat + k) = bytes.getD k 0 := by
  rw [readMem_writeAtI s.advance bytes _ h, advance_iReg, if_pos (by omega), Nat.add_sub_cancel_left]

/-- The stored digits as numbers: each is below 10, so none is cut to its low 8 bits (R83). -/
theorem decimalDigits_toNat (v : Byte) :
    ((decimalDigits v).getD 0 0).toNat = v.toNat / 100 ∧ ((decimalDigits v).getD 1 0).toNat = v.toNat / 10 % 10 ∧
      ((decimalDigits v).getD 2 0).toNat = v.toNat % 10 := by
  have hv := v.isLt
  refine ⟨(BitVec.toNat_ofNat _ 8).trans ?_, (BitVec.toNat_ofNat _ 8).trans ?_, (BitVec.toNat_ofNat _ 8).trans ?_⟩
  all_goals omega

/-- After a store of the block up to Vx, the byte at I + r holds Vr (R84). -/
theorem readMem_writeAtI_regBlock_reg (x r : Reg) (s : State) (h : s.iReg.toNat + x.val ≤ 0xFFF) (hr : r ≤ x) :
    (s.advance.writeAtI (s.regBlock (x.val + 1))).readMem (s.iReg.toNat + r.val) = s.getV r := by
  rw [readMem_writeAtI_regBlock x s r.val h hr, Fin.ofNat_val_eq_self]

/-! ## Loads from I -/

/-- After a load of the block up to Vx, Vr is the byte at I + r for each register up to Vx (R85). -/
theorem getV_loadRegs_readAtI (x r : Reg) (s : State) (hr : r ≤ x) :
    (s.advance.loadRegs (s.readAtI (x.val + 1)) (x.val + 1)).getV r = s.readMem (s.iReg.toNat + r.val) := by
  have hlt : r.val < x.val + 1 := Nat.lt_succ_of_le hr
  rw [getV_loadRegs _ _ _ _ (by omega), if_pos hlt, readAtI_getD _ _ _ hlt]

end Sys2Proof.Machine

namespace Sys2Proof

open Machine

/-- Settles O21: the store leaves Vr at I + r, which is where the load reads it. -/
theorem storeThenLoadRestoresBlock : Obligations.StoreThenLoadRestoresBlock := by
  intro x s hfit
  refine ⟨_, exec_ldStore_next x s hfit, fun s' hmem hI => ?_⟩
  rw [writeAtI_iReg, advance_iReg] at hI
  refine ⟨_, exec_ldLoad_next x s' (by rwa [hI]), fun r hr => ?_⟩
  rw [getV_loadRegs_readAtI x r s' hr, hI, State.readMem, hmem]
  exact readMem_writeAtI_regBlock_reg x r s hfit hr

/-- Settles O16: each answers the advance with its value in I, the sum modulo 2^16 and the glyph address exact. -/
theorem indexRegisterWrites : Obligations.IndexRegisterWrites := by
  refine ⟨fun addr ha => encodes_of_encode _ (.ldI addr) (decide_eq_true ha) rfl,
    fun x => ⟨encodes_of_encode _ (.addI x) rfl (packXkk_eq_wordX 15 x 0x1E),
      encodes_of_encode _ (.ldF x) rfl (packXkk_eq_wordX 15 x 0x29)⟩,
    fun s => ⟨fun addr => next_setI s (· = addr) rfl, fun x => next_setI s (·.toNat = _) ?_,
      fun x => next_setI s (·.toNat = _) (glyphAddress_toNat _)⟩⟩
  bv_omega

/-- Settles O17: the store writes the digits at I to I + 2, and the check faults when I + 2 does not exist. -/
theorem storeDecimalDigits : Obligations.StoreDecimalDigits := by
  refine fun x => ⟨encodes_of_encode _ (.ldB x) rfl (packXkk_eq_wordX 15 x 0x33),
    fun s => ⟨checked_access_faults s 2, fun h => ?_⟩⟩
  have hfit : s.iReg.toNat + (decimalDigits (s.getV x)).length ≤ memSize := Nat.succ_le_succ h
  have hread (k : Nat) (hk : k < 3) := readMem_writeAtI_offset s (decimalDigits (s.getV x)) k hfit hk
  obtain ⟨hundreds, tens, units⟩ := decimalDigits_toNat (s.getV x)
  refine ⟨_, exec_ldB_next x s h, ?_, ?_, ?_, sameMemOutside_writeAtI s _ hfit, rfl, sameButMemAndPc_writeAtI s _⟩
  · exact (congrArg BitVec.toNat (hread 0 (by decide))).trans hundreds
  · exact (congrArg BitVec.toNat (hread 1 (by decide))).trans tens
  · exact (congrArg BitVec.toNat (hread 2 (by decide))).trans units

/-- Settles O18: the store writes the block at I to I + x, and the check faults when I + x does not exist. -/
theorem storeRegisterBlock : Obligations.StoreRegisterBlock := by
  refine fun x => ⟨encodes_of_encode _ (.ldStore x) rfl (packXkk_eq_wordX 15 x 0x55),
    fun s => ⟨checked_access_faults s x.val, fun h => ?_⟩⟩
  have houtside := sameMemOutside_writeAtI s (s.regBlock (x.val + 1))
  rw [regBlock_length] at houtside
  exact ⟨_, exec_ldStore_next x s h, fun r hr => readMem_writeAtI_regBlock_reg x r s h hr,
    houtside (Nat.succ_le_succ h), rfl, sameButMemAndPc_writeAtI s _⟩

/-- Settles O19: the load gives each register up to Vx its byte and keeps all else, and the check faults when I + x does
not exist. -/
theorem loadRegisterBlock : Obligations.LoadRegisterBlock := by
  refine fun x => ⟨encodes_of_encode _ (.ldLoad x) rfl (packXkk_eq_wordX 15 x 0x65),
    fun s => ⟨checked_access_faults s x.val, fun h => ?_⟩⟩
  obtain ⟨hv, hrest⟩ := sameButV_loadRegs s (s.readAtI (x.val + 1)) x
  refine ⟨_, exec_ldLoad_next x s h, fun r hr => getV_loadRegs_readAtI x r s hr, fun r hr => hv r ?_, ?_, hrest⟩
  · simpa [writtenV] using hr
  · rw [loadRegs_eq]
    rfl

end Sys2Proof
end

section
/-! PROOFS. Random numbers (R86 to R90): the generator's step as an injective map, and the one answer of RND in either
mode. -/

namespace Sys2Proof.Machine

/-! ## The generator's step -/

/-- `x ^= x << k` loses nothing: from the lowest bit up, bit i of the result gives bit i of x once bit i - k is known
(R87). -/
theorem xor_shiftLeft_injective {w k : Nat} (hk : 0 < k) : Function.Injective fun x : BitVec w => x ^^^ (x <<< k) := by
  intro x y h
  have hbit (i : Nat) : x.getLsbD i = y.getLsbD i := by
    induction i using Nat.strong_induction_on with
    | _ i ih =>
      have hi := congrArg (·.getLsbD i) h
      simp only [BitVec.getLsbD_xor, BitVec.getLsbD_shiftLeft] at hi
      by_cases hik : i < k
      · simpa [hik] using hi
      · rw [ih (i - k) (by omega)] at hi
        exact Bool.xor_left_inj.1 hi
  exact BitVec.eq_of_getLsbD_eq fun i _ => hbit i

/-- `x ^= x >> k` loses nothing: from the highest bit down, bit i of the result gives bit i of x once bit i + k is known
(R87). -/
theorem xor_ushiftRight_injective {w k : Nat} (hk : 0 < k) :
    Function.Injective fun x : BitVec w => x ^^^ (x >>> k) := by
  intro x y h
  have hbit (d i : Nat) (hd : w ≤ i + d) : x.getLsbD i = y.getLsbD i := by
    induction d generalizing i with
    | zero => rw [BitVec.getLsbD_of_ge x i hd, BitVec.getLsbD_of_ge y i hd]
    | succ d ih =>
      have hi := congrArg (·.getLsbD i) h
      simp only [BitVec.getLsbD_xor, BitVec.getLsbD_ushiftRight] at hi
      rw [ih (k + i) (by omega)] at hi
      exact Bool.xor_left_inj.1 hi
  exact BitVec.eq_of_getLsbD_eq fun i _ => hbit w i (Nat.le_add_left w i)

/-- The step of the generator is invertible (R87). -/
theorem xorshift32_injective : Function.Injective xorshift32 :=
  (xor_shiftLeft_injective (w := 32) (k := 5) (by decide)).comp
    ((xor_ushiftRight_injective (w := 32) (k := 17) (by decide)).comp
      (xor_shiftLeft_injective (w := 32) (k := 13) (by decide)))

@[simp] theorem xorshift32_zero : xorshift32 0 = 0 := by decide

/-- Only the state 0 leads to 0 (R87). -/
theorem xorshift32_eq_zero_iff (a : Word32) : xorshift32 a = 0 ↔ a = 0 :=
  xorshift32_injective.eq_iff' xorshift32_zero

/-! ## The answer of RND -/

theorem randomWord_in_stream (s : State) (h : s.rngMode = .stream) : s.randomWord = xorshift32 s.rng := by
  rw [State.randomWord, h]

theorem randomWord_in_draw (s : State) (h : s.rngMode = .draw) : s.randomWord = Config.draw32 s.drawCount := by
  rw [State.randomWord, h]

/-- Everything but Vx, pc and the generator. -/
abbrev SameButVAndRandom (x : Reg) (s t : State) : Prop :=
  SameV [x] s t ∧ SameI s t ∧ SameStack s t ∧ SameTimers s t ∧ SameScreen s t ∧ SameMem s t ∧ SameInputs s t ∧
    SameStatus s t

/-- A draw and then a write of Vx change nothing else but pc. -/
theorem sameButVAndRandom_setV (s : State) (x : Reg) (b : Byte) :
    SameButVAndRandom x s (s.advance.afterRandom.setV x b) := by
  obtain ⟨hv, hi, hstack, htimers, hscreen, hmem, -, hrest⟩ := sameButV_setV s x b
  rw [afterRandom_eq]
  exact ⟨hv, hi, hstack, htimers, hscreen, hmem, hrest⟩

/-- RND in either mode: the generator is as after one draw, and Vx holds the drawn value's low byte and kk (R90). -/
theorem exec_rnd (x : Reg) (kk : Byte) (s : State) :
    ∃ t, exec (.rnd x kk) s = .next t ∧ t.rng = s.advance.afterRandom.rng ∧
      t.drawCount = s.advance.afterRandom.drawCount ∧ t.getV x = s.randomWord.setWidth 8 &&& kk ∧ t.pc = s.pc + 2 ∧
      SameButVAndRandom x s t :=
  ⟨_, rfl, rfl, rfl, getV_setV_same _ x _, afterRandom_pc s.advance, sameButVAndRandom_setV s x _⟩

/-- RND in mode STREAM (R86, R89, R90). -/
theorem exec_rnd_in_stream (x : Reg) (kk : Byte) (s : State) (h : s.rngMode = .stream) :
    ∃ t, exec (.rnd x kk) s = .next t ∧ t.rng = xorshift32 s.rng ∧ t.drawCount = s.drawCount ∧
      t.getV x = (xorshift32 s.rng).setWidth 8 &&& kk ∧ t.pc = s.pc + 2 ∧ SameButVAndRandom x s t := by
  obtain ⟨hrng, hcount⟩ := afterRandom_in_stream s.advance h
  have hrnd := exec_rnd x kk s
  rwa [hrng, hcount, randomWord_in_stream s h] at hrnd

end Sys2Proof.Machine

namespace Sys2Proof

open Machine

/-- Settles O24: the step of RNG is injective and sends 0 to 0, and a byte masked out of 0 is 0. -/
theorem streamIsInvertibleAndFixesZero : Obligations.StreamIsInvertibleAndFixesZero := by
  intro x kk s s' hs hs'
  obtain ⟨t, ht, hrng, -, hv, -⟩ := exec_rnd_in_stream x kk s hs
  obtain ⟨t', ht', hrng', -⟩ := exec_rnd_in_stream x kk s' hs'
  refine ⟨t, t', ht, ht', ?_, ?_, fun h0 => ?_⟩
  · rw [hrng, hrng']
    exact xorshift32_injective.eq_iff
  · rw [hrng]
    exact xorshift32_eq_zero_iff s.rng
  · rw [hv, h0, xorshift32_zero]
    exact BitVec.zero_and

/-- Settles O22, by `exec_rnd_in_stream`: the three steps are those `xorshift32` makes. -/
theorem randomByteOfTheStream : Obligations.RandomByteOfTheStream := by
  refine fun x kk => ⟨encodes_of_encode _ (.rnd x kk) rfl rfl, fun s h => ?_⟩
  obtain ⟨t, ht, hrng, hcount, hv, hrest⟩ := exec_rnd_in_stream x kk s h
  exact ⟨t, ht, ⟨_, _, _, rfl, rfl, rfl, hrng, hv⟩, hcount, hrest⟩

/-- Settles O23, by `exec_rnd` and what a draw and its value are in mode DRAW. -/
theorem randomByteOfTheDraw : Obligations.RandomByteOfTheDraw := by
  intro x kk s h
  obtain ⟨hrng, hcount⟩ := afterRandom_in_draw s.advance h
  have hrnd := exec_rnd x kk s
  rwa [hrng, hcount, randomWord_in_draw s h] at hrnd

end Sys2Proof
end

section
/-! PROOFS. The sprite instruction (R91 to R95): a sprite addresses each index once, so the order of the pixel loop does
not matter; the three answers of DRW; and which states address the same pixels. -/

namespace Sys2Proof.Machine

/-! ## The addressed indices -/

/-- An index tells the row and the column of its bit: a row is 64 indices long, a sprite 8 (R95). -/
theorem pixelIndex_injective {cx cy row1 row2 col1 col2 : Nat} (h1 : col1 < 8) (h2 : col2 < 8)
    (h : (cy + row1) * 64 + (cx + col1) = (cy + row2) * 64 + (cx + col2)) : row1 = row2 ∧ col1 = col2 := by
  omega

/-- A sprite addresses no index twice: not within a row, and not in a row and one below it (R95). -/
theorem spritePixels_nodup (cx cy : Nat) (bytes : List Byte) : (spritePixels cx cy bytes).Nodup := by
  induction bytes generalizing cy with
  | nil => exact List.nodup_nil
  | cons b rest ih =>
    have hrow : ((spriteColumns b).map fun col => cy * 64 + (cx + col)).Nodup :=
      (List.nodup_range.filter _).map fun _ _ h => Nat.add_left_cancel (Nat.add_left_cancel h)
    refine hrow.append (ih (cy + 1)) fun p hp hq => ?_
    obtain ⟨col, hcol, rfl⟩ := List.mem_map.1 hp
    obtain ⟨row', -, col', hcol', -, hindex⟩ := (mem_spritePixels cx (cy + 1) _ rest).1 hq
    rw [Nat.add_assoc cy 1 row'] at hindex
    obtain ⟨hrows, -⟩ := pixelIndex_injective (row1 := 0) ((mem_spriteColumns b col).1 hcol).1 hcol' hindex
    omega

/-- DRW walks no index twice (R95). -/
theorem drawnPixels_nodup (s : State) (x y : Reg) (n : Nat) : (s.drawnPixels x y n).Nodup :=
  spritePixels_nodup _ _ _

/-- The check of R92, on the set bits of the sprite. -/
theorem pixelsFit_drawnPixels_iff (s : State) (x y : Reg) (n : Nat) :
    pixelsFit (s.drawnPixels x y n) = true ↔ ∀ p, SpriteSets s x y n p → p ≤ 2047 := by
  simp only [pixelsFit_iff, mem_drawnPixels]

/-- The pixel loop over distinct indices depends on the set of them alone, not on their order (R95). -/
theorem blit_perm (fb : Framebuffer) (hit : Bool) {ps qs : List Nat} (h : ps.Perm qs) (hd : qs.Nodup)
    (hf : ∀ p ∈ ps, p < fbSize) : blit fb hit ps = blit fb hit qs := by
  have hd' : ps.Nodup := h.nodup_iff.2 hd
  have hf' : ∀ p ∈ qs, p < fbSize := fun p hp => hf p (h.mem_iff.2 hp)
  refine Prod.ext (framebuffer_ext _ _ fun p => ?_) (Bool.eq_iff_iff.2 ?_)
  · simp only [pixelOf_blit _ _ _ _ hd' hf, pixelOf_blit _ _ _ _ hd hf', h.mem_iff]
  · simp only [blit_hit _ _ _ hd' hf, blit_hit _ _ _ hd hf', h.mem_iff]

/-! ## The answers of DRW -/

/-- A sprite with a byte past 0xFFF faults before anything else (R92, R108). -/
theorem exec_drw_memRange (x y : Reg) (n : Nat) (s : State) (h : ¬ SpriteInMemory s n) :
    exec (.drw x y n) s = .next (s.enterFault .memRange) :=
  if_neg (mt (reachable_iff s n).1 h)

/-- A sprite in memory with a set bit past index 2047 faults (R92, R108). -/
theorem exec_drw_pixelRange (x y : Reg) (n : Nat) (s : State) (hmem : SpriteInMemory s n)
    (h : ¬ ∀ p, SpriteSets s x y n p → p ≤ 2047) : exec (.drw x y n) s = .next (s.enterFault .pixelRange) :=
  (if_pos ((reachable_iff s n).2 hmem)).trans (if_neg (mt (pixelsFit_drawnPixels_iff s x y n).1 h))

/-- Everything but VF, pc and the screen. -/
abbrev SameButFlagAndScreen (s t : State) : Prop :=
  SameV [regVF] s t ∧ SameI s t ∧ SameStack s t ∧ SameTimers s t ∧ SameMem s t ∧ SameRandom s t ∧ SameInputs s t ∧
    SameStatus s t

/-- A write of VF and of the screen changes nothing else but pc. -/
theorem sameButFlagAndScreen_draw (s : State) (b : Byte) (fb : Framebuffer) (draw : Bool) :
    SameButFlagAndScreen s { s.advance.setV regVF b with fb := fb, draw := draw } := by
  obtain ⟨hv, hi, hstack, htimers, -, hrest⟩ := sameButV_setV s regVF b
  exact ⟨hv, hi, hstack, htimers, hrest⟩

/-- A draw that fits inverts the pixels its set bits address and leaves the others alone, notes in VF whether one of them
was set, and sets DRAW (R93). -/
theorem exec_drw_draws (x y : Reg) (n : Nat) (s : State) (hmem : SpriteInMemory s n)
    (hfit : ∀ p, SpriteSets s x y n p → p ≤ 2047) :
    ∃ t, exec (.drw x y n) s = .next t ∧
      (∀ p, SpriteSets s x y n p → t.pixel p = !s.pixel p) ∧
      (∀ p, ¬ SpriteSets s x y n p → t.pixel p = s.pixel p) ∧
      ((∃ p, SpriteSets s x y n p ∧ s.pixel p = true) → t.getV 15 = 1) ∧
      ((∀ p, SpriteSets s x y n p → s.pixel p = false) → t.getV 15 = 0) ∧
      t.draw = true ∧ t.pc = s.pc + 2 ∧ SameButFlagAndScreen s t := by
  have hf : ∀ p ∈ s.drawnPixels x y n, p < fbSize := fun p hp =>
    Nat.lt_succ_of_le (hfit p ((mem_drawnPixels s x y n p).1 hp))
  have hpixel (p : Nat) := pixelOf_blit s.fb false _ p (drawnPixels_nodup s x y n) hf
  have hhit := blit_hit s.fb false _ (drawnPixels_nodup s x y n) hf
  simp only [mem_drawnPixels, Bool.false_eq_true, false_or] at hpixel hhit
  have hflag (fb : Framebuffer) (b : Byte) :
      ({ s.advance.setV regVF b with fb := fb, draw := true } : State).getV 15 = b := getV_setV_same _ regVF b
  refine ⟨_, (if_pos ((reachable_iff s n).2 hmem)).trans (if_pos ((pixelsFit_drawnPixels_iff s x y n).2 hfit)),
    fun p hp => ?_, fun p hp => ?_, fun h => ?_, fun h => ?_, rfl, rfl, sameButFlagAndScreen_draw s _ _ _⟩
  · exact (hpixel p).trans (by rw [decide_eq_true hp, Bool.xor_true]; rfl)
  · exact (hpixel p).trans (by rw [decide_eq_false hp, Bool.xor_false]; rfl)
  · rw [hflag, hhit.2 h]
    rfl
  · have hmiss : (blit s.fb false (s.drawnPixels x y n)).2 = false :=
      Bool.eq_false_iff.2 fun hit => by
        obtain ⟨p, hp, hset⟩ := hhit.1 hit
        exact Bool.false_ne_true ((h p hp).symm.trans hset)
    rw [hflag, hmiss]
    rfl

/-! ## The same sprite at the same place -/

/-- Which indices a sprite sets is fixed by its corner, I and its bytes (R91). -/
theorem spriteSets_congr {s s' : State} {x y : Reg} {n : Nat} (hx : s'.getV x = s.getV x) (hy : s'.getV y = s.getV y)
    (hI : SameI s s') (hbytes : ∀ k, k < n → s'.readMem (s.iReg.toNat + k) = s.readMem (s.iReg.toNat + k)) (p : Nat) :
    SpriteSets s' x y n p ↔ SpriteSets s x y n p := by
  unfold SpriteSets
  rw [hx, hy, hI]
  refine exists_congr fun row => and_congr_right fun hrow => ?_
  rw [hbytes row hrow]

end Sys2Proof.Machine

namespace Sys2Proof

open Machine

/-- Settles O27: the list walked has no repeats, so the pixel loop sees only the set of its indices. -/
theorem spriteBitsAddressDistinctPixels : Obligations.SpriteBitsAddressDistinctPixels :=
  ⟨fun _ _ _ _ _ _ h1 h2 h => pixelIndex_injective h1 h2 h,
    fun s x y n => ⟨drawnPixels_nodup s x y n, fun _ hperm hfit =>
      blit_perm s.fb false hperm (drawnPixels_nodup s x y n) fun p hp => Nat.lt_succ_of_le (hfit p hp)⟩⟩

/-- Settles O25, by the three answers of DRW. -/
theorem drawInvertsAddressedPixels : Obligations.DrawInvertsAddressedPixels := by
  refine ⟨fun x y n hn => encodes_of_encode _ (.drw x y n) (decide_eq_true hn) (packXyn_eq_wordXy 0xD n x y),
    fun x y n s => ⟨fun h => ?_, fun hmem hout => ?_, exec_drw_draws x y n s⟩⟩
  · exact ⟨_, exec_drw_memRange x y n s h, enterFault_faultedFrom s _⟩
  · obtain ⟨p, hp, hset⟩ := hout
    exact ⟨_, exec_drw_pixelRange x y n s hmem fun h => absurd (h p hset) (Nat.not_le_of_lt hp),
      enterFault_faultedFrom s _⟩

/-- Settles O26: both draws address the same pixels, so the second inverts back what the first inverted, and finds set
exactly those that the first found clear. -/
theorem drawingTwiceRestoresTheScreen : Obligations.DrawingTwiceRestoresTheScreen := by
  intro x y n s hx hy hmem hfit
  obtain ⟨t, ht, hin, hout, -, -, -, -, hv, hI, -, -, hbytes, -⟩ := exec_drw_draws x y n s hmem hfit
  refine ⟨t, ht, fun s' hpixels hx' hy' hI' hbytes' => ?_⟩
  have hsets (p : Nat) : SpriteSets s' x y n p ↔ SpriteSets s x y n p :=
    (spriteSets_congr hx' hy' hI' hbytes' p).trans
      (spriteSets_congr (hv x (by simpa using hx)) (hv y (by simpa using hy)) hI (fun _ _ => hbytes _) p)
  have hmem' : SpriteInMemory s' n := by rwa [SpriteInMemory, hI', hI]
  obtain ⟨u, hu, hin', hout', hhit, hmiss, -⟩ :=
    exec_drw_draws x y n s' hmem' fun p hp => hfit p ((hsets p).1 hp)
  simp only [hsets, hpixels] at hin' hout' hhit hmiss
  have hset : (∃ p, SpriteSets s x y n p ∧ s.pixel p = false) → u.getV 15 = 1 := fun ⟨p, hp, hclear⟩ =>
    hhit ⟨p, hp, by rw [hin p hp, hclear, Bool.not_false]⟩
  have hclear : (∀ p, SpriteSets s x y n p → s.pixel p = true) → u.getV 15 = 0 := fun h =>
    hmiss fun p hp => by rw [hin p hp, h p hp, Bool.not_true]
  refine ⟨u, hu, fun p => ?_, hset, hclear, fun hzero => ⟨fun hone => ?_, fun ⟨p, hp⟩ => hset ⟨p, hp, hzero p⟩⟩⟩
  · by_cases hp : SpriteSets s x y n p
    · rw [hin' p hp, hin p hp, Bool.not_not]
    · rw [hout' p hp, hout p hp]
  · by_contra hnone
    have hvf : u.getV 15 = 0 := hclear fun p hp => absurd ⟨p, hp⟩ hnone
    exact absurd (hvf.symm.trans hone) (by decide)

end Sys2Proof
end

section
/-! PROOFS. The keypad instructions (R96 to R98): which key Vx names, the answers of the two skips on it, and those of the
key scan. -/

namespace Sys2Proof.Machine

/-! ## The key Vx names -/

/-- A value above 15 names no key (R96, R97). -/
theorem keyIndex_of_gt (s : State) (x : Reg) (h : 15 < (s.getV x).toNat) : s.keyIndex x = none := if_pos h

/-- A value up to 15 names the key of that number (R96, R97). -/
theorem keyIndex_of_le (s : State) (x : Reg) (h : (s.getV x).toNat ≤ 15) : s.keyIndex x = some (s.getV x).toNat :=
  if_neg (Nat.not_lt_of_le h)

/-! ## Skips on a key -/

/-- SKP with no such key (R96, R106). -/
theorem exec_skp_keyRange (x : Reg) (s : State) (h : 15 < (s.getV x).toNat) :
    exec (.skp x) s = .next (s.enterFault .keyRange) := by
  simp only [exec, execSkp, keyIndex_of_gt s x h, raiseFault_eq]

/-- SKNP with no such key (R97, R106). -/
theorem exec_sknp_keyRange (x : Reg) (s : State) (h : 15 < (s.getV x).toNat) :
    exec (.sknp x) s = .next (s.enterFault .keyRange) := by
  simp only [exec, execSknp, keyIndex_of_gt s x h, raiseFault_eq]

/-- SKP on a key skips when it is pressed (R96). -/
theorem exec_skp_next (x : Reg) (s : State) (h : (s.getV x).toNat ≤ 15) :
    exec (.skp x) s = .next (s.advance.skipIf (s.keyPressed (s.getV x).toNat)) := by
  simp only [exec, execSkp, keyIndex_of_le s x h]

/-- SKNP on a key skips when it is not pressed (R97). -/
theorem exec_sknp_next (x : Reg) (s : State) (h : (s.getV x).toNat ≤ 15) :
    exec (.sknp x) s = .next (s.advance.skipIf (!s.keyPressed (s.getV x).toNat)) := by
  simp only [exec, execSknp, keyIndex_of_le s x h]

/-- A skip on a condition that does not hold (R97). -/
theorem skipIf_not_pc (s : State) (c : Bool) :
    (s.advance.skipIf (!c)).pc = if c = true then s.pc + 2 else s.pc + 4 := by
  simp only [skipIf_advance_pc, Bool.not_eq_true', ← Bool.not_eq_true, ite_not]

/-! ## The key scan -/

/-- LD Vx,K with no key pressed is the advance alone (R98). -/
theorem exec_ldVxK_none (x : Reg) (s : State) (h : s.lastPressed 16 = none) : exec (.ldVxK x) s = .next s.advance := by
  simp only [exec, execLdVxK, h]

/-- LD Vx,K loads the key the scan finds (R98). -/
theorem exec_ldVxK_some (x : Reg) (s : State) (k : Nat) (h : s.lastPressed 16 = some k) :
    exec (.ldVxK x) s = .next (s.advance.setV x (BitVec.ofNat 8 k)) := by
  simp only [exec, execLdVxK, h]

end Sys2Proof.Machine

namespace Sys2Proof

open Machine

/-- Settles O28: a value above 15 names no key, and on a named key the two skip on opposite conditions. -/
theorem skipOnKey : Obligations.SkipOnKey := by
  refine fun x => ⟨encodes_of_encode _ (.skp x) rfl (packXkk_eq_wordX 14 x 0x9E),
    encodes_of_encode _ (.sknp x) rfl (packXkk_eq_wordX 14 x 0xA1), fun s => ⟨fun h => ?_, fun h => ?_⟩⟩
  · exact ⟨⟨_, exec_skp_keyRange x s h, enterFault_faultedFrom s _⟩,
      ⟨_, exec_sknp_keyRange x s h, enterFault_faultedFrom s _⟩⟩
  · exact ⟨⟨_, exec_skp_next x s h, skipIf_advance_pc s _, sameButPc_skipIf s _⟩,
      ⟨_, exec_sknp_next x s h, skipIf_not_pc s _, sameButPc_skipIf s _⟩⟩

/-- Settles O29: the scan finds nothing exactly when no key is pressed, and otherwise the highest pressed key, which is
below 16 and so fits in a byte. -/
theorem loadHighestPressedKey : Obligations.LoadHighestPressedKey := by
  refine fun x => ⟨encodes_of_encode _ (.ldVxK x) rfl (packXkk_eq_wordX 15 x 0x0A), fun s => ?_⟩
  cases hscan : s.lastPressed 16 with
  | none =>
    refine ⟨_, exec_ldVxK_none x s hscan, fun _ => rfl, fun k hk hpressed _ => ?_, rfl, fun _ _ => rfl,
      (sameButPc_advance s).2⟩
    exact absurd (((lastPressed_eq_none s 16).1 hscan k hk).symm.trans hpressed) Bool.false_ne_true
  | some k =>
    obtain ⟨hk, hpressed, -⟩ := (lastPressed_eq_some s 16 k).1 hscan
    refine ⟨_, exec_ldVxK_some x s k hscan, fun hnone => ?_, fun j hj hjpressed hjlast => ?_, rfl, sameButV_setV s x _⟩
    · exact absurd ((hnone k hk).symm.trans hpressed) Bool.false_ne_true
    · have hjscan := (lastPressed_eq_some s 16 j).2 ⟨hj, hjpressed, hjlast⟩
      obtain rfl : k = j := Option.some.inj (hscan.symm.trans hjscan)
      rw [getV_setV_same, BitVec.toNat_ofNat]
      omega

end Sys2Proof
end

section
/-! PROOFS. The timers and the runs of cycles (R99 to R104): the tick as numbers, what a cycle that completes does to each
timer, and the count of either timer over a run. -/

namespace Sys2Proof.Machine

/-! ## Runs -/

/-- Every step answers a next state: a fault is one too (R106). -/
theorem step_next (s : State) : ∃ t, step s = .next t := by
  cases hh : s.halted with
  | true => exact ⟨_, step_halted s hh⟩
  | false =>
    cases hf : s.fetchInstr with
    | error reason => exact ⟨_, step_fetch_fails s reason hh hf⟩
    | ok i =>
      obtain ⟨t, ht⟩ := exec_next i s
      exact ⟨_, (step_fetch_ok s i hh hf).trans (congrArg finishCycle ht)⟩

/-- The first cycle of a run. -/
theorem run_succ_of_step {s t : State} (n : Nat) (h : step s = .next t) : core.run (n + 1) s = core.run n t := by
  have hstep : core.step s = .next t := h
  simp only [Host.Core.run, hstep]

/-- The last cycle of a run. -/
theorem run_succ_last (n : Nat) (s u : State) (h : core.run (n + 1) s = .next u) :
    ∃ m : State, core.run n s = .next m ∧ step m = .next u := by
  induction n generalizing s with
  | zero =>
    obtain ⟨t, ht⟩ := step_next s
    rw [run_succ_of_step 0 ht] at h
    exact ⟨s, rfl, ht.trans h⟩
  | succ n ih =>
    obtain ⟨t, ht⟩ := step_next s
    rw [run_succ_of_step (n + 1) ht] at h
    rw [run_succ_of_step n ht]
    exact ih t h

/-! ## The tick -/

theorem tick_dt_toNat (s : State) : s.tick.dt.toNat = s.dt.toNat - 1 := by
  rw [tick_dt]
  split <;> bv_omega

theorem tick_st_toNat (s : State) : s.tick.st.toNat = s.st.toNat - 1 := by
  rw [tick_st]
  split <;> bv_omega

/-- BEEP is asserted iff the tick takes ST from 1 to 0 (R100). -/
theorem tick_beep_iff (s : State) : s.tick.beep = true ↔ s.st = 1 := by rw [tick_beep, beq_iff_eq]

/-! ## The end of a cycle -/

/-- An instruction that halts a running CORE has answered its fault entry (R106). -/
theorem exec_halts_by_fault {i : Instr} {s t : State} (he : exec i s = .next t) (hs : s.halted = false)
    (ht : t.halted = true) : ∃ reason, t = s.enterFault reason := by
  rcases exec_runs_or_faults i s with ⟨u, hu, hhalted, -⟩ | ⟨reason, hu, -⟩
  · obtain rfl : t = u := Host.Outcome.next.inj (he.symm.trans hu)
    exact absurd ((ht.symm.trans hhalted).trans hs) (by decide)
  · exact ⟨reason, Host.Outcome.next.inj (he.symm.trans hu)⟩

/-- A step that leaves CORE running ran an instruction and ticked (R46, R99). -/
theorem step_completes {s t : State} (h : step s = .next t) (ht : t.halted = false) :
    s.halted = false ∧ ∃ i u, s.fetchInstr = .ok i ∧ exec i s = .next u ∧ t = u.tick := by
  rcases step_cases s t h with ⟨hs, rfl⟩ | ⟨-, reason, -, rfl⟩ | ⟨-, i, reason, -, -, -, rfl⟩ | ⟨hs, i, u, hf, he, -, rfl⟩
  · exact absurd (hs.symm.trans ht) (by decide)
  · cases ht
  · cases ht
  · exact ⟨hs, i, u, hf, he, rfl⟩

/-- A cycle that completes and runs no LD DT,Vx counts DT down (R99, R103). -/
theorem step_counts_dt {s t : State} (h : step s = .next t) (ht : t.halted = false)
    (hquiet : ∀ x, s.fetchInstr ≠ .ok (.ldDtVx x)) : t.dt.toNat = s.dt.toNat - 1 := by
  obtain ⟨-, i, u, hf, he, rfl⟩ := step_completes h ht
  have hdt : u.dt = s.dt := (exec_writesAsTabled i s u he).dt fun x hi => hquiet x (hi ▸ hf)
  rw [tick_dt_toNat, hdt]

/-- A cycle that completes and runs no LD ST,Vx counts ST down, and beeps iff ST was 1 (R99, R100, R104). -/
theorem step_counts_st {s t : State} (h : step s = .next t) (ht : t.halted = false)
    (hquiet : ∀ x, s.fetchInstr ≠ .ok (.ldStVx x)) :
    t.st.toNat = s.st.toNat - 1 ∧ (t.beep = true ↔ s.st = 1) := by
  obtain ⟨-, i, u, hf, he, rfl⟩ := step_completes h ht
  have hst : u.st = s.st := (exec_writesAsTabled i s u he).st fun x hi => hquiet x (hi ▸ hf)
  rw [tick_st_toNat, tick_beep_iff, hst]
  exact ⟨rfl, Iff.rfl⟩

/-- A number that every completed cycle from a state with `quiet` counts down is counted down by `n` over `n` completed
cycles, each from such a state (R101). -/
theorem run_counts_down (timer : State → Nat) (quiet : State → Prop)
    (hstep : ∀ s t, step s = .next t → t.halted = false → quiet s → timer t = timer s - 1) (n : Nat) (s u : State)
    (h : core.run n s = .next u) (hu : u.halted = false)
    (hquiet : ∀ k, k < n → ∀ m : State, core.run k s = .next m → quiet m) : timer u = timer s - n := by
  induction n generalizing u with
  | zero => cases h; rfl
  | succ n ih =>
    obtain ⟨m, hm, hlast⟩ := run_succ_last n s u h
    have hrunning : m.halted = false := (step_completes hlast hu).1
    have hcount : timer m = timer s - n := ih m hm hrunning fun k hk => hquiet k (Nat.lt_succ_of_lt hk)
    rw [hstep m u hlast hu (hquiet n (Nat.lt_succ_self n) m hm), hcount, Nat.sub_sub]

end Sys2Proof.Machine

namespace Sys2Proof

open Machine

/-- Settles O32: a fault of the fetch or of the instruction is the fault entry, with no tick; every other cycle is the
instruction's effect and the tick. -/
theorem tickEndsEveryCompletedCycle : Obligations.TickEndsEveryCompletedCycle := by
  refine fun s hs => ⟨fun reason hf => ⟨_, step_fetch_fails s reason hs hf, rfl, rfl, rfl⟩, fun i t hf he => ?_⟩
  have hstep : step s = .next t.endCycle := (step_fetch_ok s i hs hf).trans (congrArg finishCycle he)
  refine ⟨fun ht => ?_, fun ht => ?_⟩
  · obtain ⟨reason, rfl⟩ := exec_halts_by_fault he hs ht
    exact ⟨_, hstep, rfl, rfl, rfl⟩
  · rw [endCycle_running t ht] at hstep
    exact ⟨_, hstep, tick_dt_toNat t, tick_st_toNat t, tick_beep_iff t, rfl⟩

/-- Settles O33, by `run_counts_down` on DT. -/
theorem delayTimerCountsCycles : Obligations.DelayTimerCountsCycles := fun n s u h hu hquiet =>
  run_counts_down (·.dt.toNat) (fun m => ∀ x, m.fetchInstr ≠ .ok (.ldDtVx x))
    (fun _ _ => step_counts_dt) n s u h hu fun k hk m hm x => hquiet k hk m x hm

/-- Settles O34: the first n cycles count ST down by n, and the last one counts it down once more and beeps iff it found 1
there. -/
theorem soundTimerBeepsOnce : Obligations.SoundTimerBeepsOnce := by
  intro n s u h hu hquiet
  obtain ⟨m, hm, hlast⟩ := run_succ_last n s u h
  have hrunning : m.halted = false := (step_completes hlast hu).1
  have hcount : m.st.toNat = s.st.toNat - n :=
    run_counts_down (·.st.toNat) (fun m => ∀ x, m.fetchInstr ≠ .ok (.ldStVx x))
      (fun _ _ hstep hrun hq => (step_counts_st hstep hrun hq).1) n s m hm hrunning
      fun k hk m' hm' x => hquiet k (Nat.lt_succ_of_lt hk) m' x hm'
  obtain ⟨hst, hbeep⟩ := step_counts_st hlast hu fun x => hquiet n (Nat.lt_succ_self n) m x hm
  refine ⟨by rw [hst, hcount, Nat.sub_sub], hbeep.trans ?_⟩
  bv_omega

/-- Settles O30: the advance with DT in Vx, and DT is among what is kept. -/
theorem readDelayTimer : Obligations.ReadDelayTimer := fun x =>
  ⟨encodes_of_encode _ (.ldVxDt x) rfl (packXkk_eq_wordX 15 x 0x07),
    fun s => ⟨_, rfl, getV_setV_same _ x s.dt, rfl, sameButV_setV s x s.dt⟩⟩

/-- Settles O31: each is the advance with Vx in its own timer. -/
theorem setTimers : Obligations.SetTimers := by
  refine fun x => ⟨encodes_of_encode _ (.ldDtVx x) rfl (packXkk_eq_wordX 15 x 0x15),
    encodes_of_encode _ (.ldStVx x) rfl (packXkk_eq_wordX 15 x 0x18), fun s => ?_⟩
  obtain ⟨hv, hi, hstack, -, hrest⟩ := sameButPc_advance s
  exact ⟨⟨_, rfl, rfl, rfl, rfl, hv, hi, hstack, hrest⟩, ⟨_, rfl, rfl, rfl, rfl, hv, hi, hstack, hrest⟩⟩

end Sys2Proof
end

section
/-! PROOFS. The faults of the instructions and the halted state (R105 to R108), and RESET with a ROM of a bad size
(R120). -/

namespace Sys2Proof.Machine

/-! ## The table of faults -/

/-- The instruction raises what the table gives it, one fault at most, and else completes with the run status untouched
(R105, R108). -/
structure FaultsAsTabled (i : Instr) (s : State) : Prop where
  faults : ∀ reason, Raises i s reason → ∃ t, exec i s = .next t ∧ FaultedFrom reason s t
  completes : (∀ reason, ¬ Raises i s reason) → ∃ t, exec i s = .next t ∧ SameStatus s t
  unique : ∀ r q, Raises i s r → Raises i s q → r = q

/-- An instruction with no row in the table. -/
theorem FaultsAsTabled.of_never {i : Instr} {s t : State} (hnever : ∀ reason, ¬ Raises i s reason)
    (ht : exec i s = .next t) (hstatus : SameStatus s t) : FaultsAsTabled i s :=
  ⟨fun r h => absurd h (hnever r), fun _ => ⟨t, ht, hstatus⟩, fun r _ h => absurd h (hnever r)⟩

/-- An instruction with one row in the table: under the condition it faults, else it completes. -/
theorem FaultsAsTabled.of_condition {i : Instr} {s : State} {reason : FaultReason} {C : Prop}
    (hrow : ∀ r, Raises i s r ↔ r = reason ∧ C)
    (hfaults : C → ∃ t, exec i s = .next t ∧ FaultedFrom reason s t)
    (hcompletes : ¬ C → ∃ t, exec i s = .next t ∧ SameStatus s t) : FaultsAsTabled i s where
  faults r h := by
    obtain ⟨rfl, hC⟩ := (hrow r).1 h
    exact hfaults hC
  completes hnone := hcompletes fun hC => hnone reason ((hrow reason).2 ⟨rfl, hC⟩)
  unique r q hr hq := ((hrow r).1 hr).1.trans ((hrow q).1 hq).1.symm

/-- An instruction that answers a fault entry. -/
theorem faultedFrom_of_exec {i : Instr} {s : State} {reason : FaultReason} (h : exec i s = .next (s.enterFault reason)) :
    ∃ t, exec i s = .next t ∧ FaultedFrom reason s t := ⟨_, h, enterFault_faultedFrom s reason⟩

/-- A skip leaves the run status alone. -/
theorem skipIf_status (s : State) (c : Bool) : SameStatus s (s.advance.skipIf c) :=
  ⟨skipIf_halted s.advance c, skipIf_fault s.advance c, skipIf_beep s.advance c⟩

/-- DRW raises `MEM_RANGE` before `PIXEL_RANGE`, and completes when its sprite is in memory and on the screen (R92,
R108). -/
theorem drw_faultsAsTabled (x y : Reg) (n : Nat) (s : State) : FaultsAsTabled (.drw x y n) s where
  faults := by
    rintro _ (⟨rfl, hmem⟩ | ⟨rfl, hmem, p, hp, hset⟩)
    · exact faultedFrom_of_exec (exec_drw_memRange x y n s hmem)
    · exact faultedFrom_of_exec (exec_drw_pixelRange x y n s hmem fun h => absurd (h p hset) (Nat.not_le_of_lt hp))
  completes hnone := by
    have hmem : SpriteInMemory s n := by
      by_contra hout
      exact hnone .memRange (.inl ⟨rfl, hout⟩)
    have hfit (p : Nat) (hset : SpriteSets s x y n p) : p ≤ 2047 := by
      by_contra hp
      exact hnone .pixelRange (.inr ⟨rfl, hmem, p, Nat.lt_of_not_le hp, hset⟩)
    obtain ⟨t, ht, -, -, -, -, -, -, hsame⟩ := exec_drw_draws x y n s hmem hfit
    obtain ⟨-, -, -, -, -, -, -, hstatus⟩ := hsame
    exact ⟨t, ht, hstatus⟩
  unique := by
    rintro _ _ (⟨rfl, hr⟩ | ⟨rfl, hr, -⟩) (⟨rfl, hq⟩ | ⟨rfl, hq, -⟩)
    · rfl
    · exact absurd hq hr
    · exact absurd hr hq
    · rfl

/-- Every instruction faults under exactly the tabled conditions (R105, R108). -/
theorem exec_faultsAsTabled (i : Instr) (s : State) : FaultsAsTabled i s := by
  cases i with
  | ret =>
    exact .of_condition (fun _ => Iff.rfl) (fun h => faultedFrom_of_exec (exec_ret_empty s h))
      fun h => ⟨_, (exec_ret s).trans (if_neg h), rfl, rfl, rfl⟩
  | call addr =>
    exact .of_condition (fun _ => Iff.rfl) (fun h => faultedFrom_of_exec (exec_call_full addr s h))
      fun h => ⟨_, (exec_call addr s).trans (if_neg h), rfl, rfl, rfl⟩
  | drw x y n => exact drw_faultsAsTabled x y n s
  | ldB x =>
    exact .of_condition (fun _ => Iff.rfl) (checked_access_faults s 2)
      fun h => ⟨_, exec_ldB_next x s (Nat.le_of_not_lt h), rfl, rfl, rfl⟩
  | ldStore x =>
    exact .of_condition (fun _ => Iff.rfl) (checked_access_faults s x.val)
      fun h => ⟨_, exec_ldStore_next x s (Nat.le_of_not_lt h), rfl, rfl, rfl⟩
  | ldLoad x =>
    exact .of_condition (fun _ => Iff.rfl) (checked_access_faults s x.val)
      fun h => ⟨_, exec_ldLoad_next x s (Nat.le_of_not_lt h), loadRegs_status s.advance _ _⟩
  | skp x =>
    exact .of_condition (fun _ => Iff.rfl) (fun h => faultedFrom_of_exec (exec_skp_keyRange x s h))
      fun h => ⟨_, exec_skp_next x s (Nat.le_of_not_lt h), skipIf_status s _⟩
  | sknp x =>
    exact .of_condition (fun _ => Iff.rfl) (fun h => faultedFrom_of_exec (exec_sknp_keyRange x s h))
      fun h => ⟨_, exec_sknp_next x s (Nat.le_of_not_lt h), skipIf_status s _⟩
  | ldVxK x =>
    cases hscan : s.lastPressed 16 with
    | none => exact .of_never (fun _ h => h) (exec_ldVxK_none x s hscan) ⟨rfl, rfl, rfl⟩
    | some k => exact .of_never (fun _ h => h) (exec_ldVxK_some x s k hscan) ⟨rfl, rfl, rfl⟩
  | rnd x kk =>
    exact .of_never (fun _ h => h) rfl
      ⟨afterRandom_halted s.advance, afterRandom_fault s.advance, afterRandom_beep s.advance⟩
  | seByte x kk | sneByte x kk | seReg x y | sneReg x y => exact .of_never (fun _ h => h) rfl (skipIf_status s _)
  | cls | jp addr | jpV0 addr | ldByte x kk | addByte x kk | ldReg x y | orReg x y | andReg x y | xorReg x y
  | addReg x y | subReg x y | shr x y | subnReg x y | shl x y | ldI addr | ldVxDt x | ldDtVx x | ldStVx x | addI x
  | ldF x => exact .of_never (fun _ h => h) rfl ⟨rfl, rfl, rfl⟩

/-! ## The halted state -/

/-- An idle cycle changes nothing once BEEP is not asserted (R107). -/
theorem idleCycle_eq_self (s : State) (h : s.beep = false) : s.idleCycle = s := by rw [State.idleCycle, ← h]

/-- A halted CORE with no BEEP answers any number of cycles unchanged (R107). -/
theorem run_halted (n : Nat) (s : State) (hs : s.halted = true) (hbeep : s.beep = false) : core.run n s = .next s := by
  have hstep : step s = .next s := by rw [step_halted s hs, idleCycle_eq_self s hbeep]
  induction n with
  | zero => rfl
  | succ n ih => rw [run_succ_of_step n hstep, ih]

/-! ## RESET with a ROM of a bad size -/

/-- RESET refuses a ROM of no byte or more than 3584 (R120). -/
theorem boot_bad_size (p : Params) (rom : List Byte) (seed : Word32) (h : rom.length = 0 ∨ 3584 < rom.length) :
    State.boot p rom seed = .refused .bootFailedRomSize :=
  if_neg (by unfold romMax; omega)

/-- RESET takes a ROM of 1 to 3584 bytes (R119). -/
theorem boot_legal_size (p : Params) (rom : List Byte) (seed : Word32) (hpos : 0 < rom.length)
    (hmax : rom.length ≤ 3584) : State.boot p rom seed = .next (State.built p rom seed) := if_pos ⟨hpos, hmax⟩

/-- While no state is built, an event that is no RESET with a legal ROM builds none (R120). -/
theorem hostEvent_without_state (e : HostEvent)
    (h : ∀ p rom seed, e = .reset p rom seed → rom.length = 0 ∨ 3584 < rom.length) :
    hostEvent e (.refused .bootFailedRomSize) = .refused .bootFailedRomSize := by
  cases e with
  | reset p rom seed => exact boot_bad_size p rom seed (h p rom seed rfl)
  | cycle | key _ _ | drawClear => rfl

end Sys2Proof.Machine

namespace Sys2Proof

open Machine

/-- Settles O37, by `exec_faultsAsTabled`. -/
theorem instructionFaultsAsTabled : Obligations.InstructionFaultsAsTabled := fun i s =>
  have h := exec_faultsAsTabled i s
  ⟨h.faults, h.completes, h.unique⟩

/-- Settles O38: of the things a step can do only a fault entry takes CORE from running to halted. -/
theorem faultEntryFreezesTheState : Obligations.FaultEntryFreezesTheState := by
  intro s t h hs ht
  rcases step_cases s t h with ⟨hhalted, -⟩ | ⟨-, reason, -, rfl⟩ | ⟨-, i, reason, -, -, -, rfl⟩ | ⟨-, i, u, -, -, hu, rfl⟩
  · exact absurd (hs.symm.trans hhalted) (by decide)
  · exact ⟨reason, enterFault_faultedFrom s reason⟩
  · exact ⟨reason, enterFault_faultedFrom s reason⟩
  · obtain ⟨hhalted, -⟩ := hu
    exact absurd ((hs.symm.trans hhalted.symm).trans ht) (by decide)

/-- Settles O39: a halted step is an idle cycle, and the two other events write neither HALTED nor FAULT. -/
theorem haltedCoreStaysHalted : Obligations.HaltedCoreStaysHalted := by
  refine ⟨fun s hs => ⟨_, step_halted s hs, rfl⟩, run_halted, fun e s t hs hreset h => ?_⟩
  cases e with
  | reset p rom seed => exact absurd rfl (hreset p rom seed)
  | cycle =>
    obtain rfl : s.idleCycle = t := Host.Outcome.next.inj ((step_halted s hs).symm.trans h)
    exact ⟨hs, rfl⟩
  | key k b => cases h; exact ⟨hs, rfl⟩
  | drawClear => cases h; exact ⟨hs, rfl⟩

/-- Settles O40: each cycle of the run answers a next state, by `step_next`. -/
theorem everyRunAnswersAState : Obligations.EveryRunAnswersAState := by
  intro n
  induction n with
  | zero => exact fun s => ⟨s, rfl⟩
  | succ n ih =>
    intro s
    obtain ⟨t, ht⟩ := step_next s
    rw [run_succ_of_step n ht]
    exact ih t

/-- Settles O52: the refusal stands through every event that is no RESET with a legal ROM, by induction on the events. -/
theorem resetRefusesBadRomSizes : Obligations.ResetRefusesBadRomSizes := by
  refine ⟨fun p rom seed _ => boot_bad_size p rom seed, fun es h => ?_,
    fun p rom seed hpos hmax => ⟨_, boot_legal_size p rom seed hpos hmax⟩⟩
  induction es with
  | nil => rfl
  | cons e rest ih =>
    have hfirst : hostEvent e (.refused .bootFailedRomSize) = .refused .bootFailedRomSize :=
      hostEvent_without_state e fun p rom seed he => h p rom seed (he ▸ List.mem_cons_self)
    rw [hostRun, hfirst]
    exact ih fun p rom seed hmem => h p rom seed (List.mem_cons_of_mem e hmem)

end Sys2Proof
end
